-- ==== Sys2Proof/Word.lean ====
section
/-! DEFINITION. The words of the hardware: 32-bit CRC values, rows and table entries (R7, R10), the 8-bit table
index (R7), the signed 64-bit length (R8, D1) and the 32×32 matrix over GF(2) (R12). -/

namespace Sys2Proof

/-- A CRC value, a matrix row or a table entry: 32 bits, unsigned (R7, R10). -/
abbrev Word := BitVec 32

/-- One byte of the model's storage of the TABLE space, and of a byte stream in the CRC contract. -/
abbrev Byte := BitVec 8

/-- An index into the 256-entry TABLE space (R7, R50). -/
abbrev TableIndex := BitVec 8

/-- The byte length: two's complement of `LEN_WIDTH` = 64 bits (R8, D1). DESIGN CHOICE (Log 1). -/
abbrev Len := BitVec 64

/-- A matrix `M[0..31]` of 32 rows of 32 bits; row `j` is the image of the basis vector `1 << j` (R12, C1). -/
abbrev BitMatrix := Vector Word 32

/-- Row `j` of a matrix, `M[j]` (R12). -/
def BitMatrix.row (m : BitMatrix) (j : Fin 32) : Word := m[j]

/-- `M[j] <- v` (R13). -/
def BitMatrix.setRow (m : BitMatrix) (j : Fin 32) (v : Word) : BitMatrix := m.set j v

/-- The matrix whose row `j` is `f j`. -/
def BitMatrix.ofRows (f : Fin 32 → Word) : BitMatrix := Vector.ofFn f

/-- The matrix of zero rows. -/
def BitMatrix.zero : BitMatrix := BitMatrix.ofRows fun _ => 0

end Sys2Proof
end

