-- ==== Sys2Proof/Config.lean ====
section
/-! DEFINITION. What an implementation fixes, and the free values: what the spec leaves unspecified. A free value
is an opaque constant without a body, so that no proof can learn anything about it. -/

namespace Sys2Proof

/-- `LEN_WIDTH` (R8, D1). DESIGN CHOICE (Log 1). -/
def Config.lenWidth : Nat := 64

/-- The longest operation in transitions: ACCEPT, four SEED, `LEN_WIDTH - 1` iterations of three, FINISH,
RELEASE (R127). -/
def Config.maxTransitions : Nat := 7 + 3 * (Config.lenWidth - 1)

/-- The word a table read returns when an entry the operation reads has changed in flight: an unconstrained value,
one draw for each read (R61, D19, U6). DEDUCED (Log 6). -/
opaque Config.tableDraw : Nat → Word

/-- `K` after a reset edge: unspecified (R35, R230, U1). DESIGN CHOICE (Log 3). -/
opaque Config.resetK : Nat → BitVec 2

/-- `SEL` after a reset edge: unspecified (R35, R230, U1). DESIGN CHOICE (Log 3). -/
opaque Config.resetSel : Nat → Bool

/-- `ACC` after a reset edge: unspecified (R35, R230, U1). DESIGN CHOICE (Log 3). -/
opaque Config.resetAcc : Nat → Word

/-- `CRC2_R` after a reset edge: unspecified (R35, R230, U1). DESIGN CHOICE (Log 3). -/
opaque Config.resetCrc2 : Nat → Word

/-- `LEN_R` after a reset edge: unspecified (R35, R230, U1). DESIGN CHOICE (Log 3). -/
opaque Config.resetLen : Nat → Len

/-- `RES` after a reset edge: unspecified (R35, R230, U1). DESIGN CHOICE (Log 3). -/
opaque Config.resetRes : Nat → Word

/-- `MAT_A` after a reset edge: unspecified, every row (R35, R230, U1). DESIGN CHOICE (Log 3). -/
opaque Config.resetMatA : Nat → BitMatrix

/-- `MAT_B` after a reset edge: unspecified, every row (R35, R36, R230, U1, U2). DESIGN CHOICE (Log 3). -/
opaque Config.resetMatB : Nat → BitMatrix

end Sys2Proof
end

