-- ==== Sys2Proof/Syntax.lean ====
section
/-! DEFINITION. The instructions: the rows of spec/opcode_table.json, which are the host command COMBINE and the
seven transitions of the block (R80, R81). -/

namespace Sys2Proof

/-- One constructor per row of the opcode table, in the table's order. -/
inductive Instr where
  /-- COMBINE: the host command, with the fields of format REQ (R77, R81). -/
  | combine (crc1 crc2 : Word) (length : Len)
  /-- ACCEPT: PHASE = 000, taken at a request transfer (R150). -/
  | accept
  /-- SEED: PHASE = 001 (R120). -/
  | seed
  /-- SQUARE: PHASE = 010 (R123). -/
  | square
  /-- APPLY: PHASE = 011 (R124). -/
  | apply
  /-- ADVANCE: PHASE = 100 (R125). -/
  | advance
  /-- FINISH: PHASE = 101 (R153). -/
  | finish
  /-- RELEASE: PHASE = 110, taken at a response transfer (R155). -/
  | release
deriving DecidableEq, Repr

end Sys2Proof
end

