-- ==== Sys2Proof/WellFormed.lean ====
section
/-! DEFINITION. Well-formed instructions. Every field of `Instr` has exactly the width its format gives it (R77,
R80), no request value is illegal or reserved (R81, R83) and there is one request length (R84): the syntax cannot
hold an ill-formed instruction, so there is no check that refuses one. -/

namespace Sys2Proof

/-- Whether an instruction is well-formed: each is (R81: "there is no illegal request"). -/
def Instr.wellFormed : Instr → Bool
  | .combine _ _ _ => true
  | .accept => true
  | .seed => true
  | .square => true
  | .apply => true
  | .advance => true
  | .finish => true
  | .release => true

end Sys2Proof
end

