-- ==== Sys2Proof/Decode.lean ====
section
/-! DEFINITION. The two encodings of the spec and their decoders: format REQ (R77), a request on the request port,
and PHASE (R80), the phase register that selects the block's transition. The decoder is total and rejects by name. -/

namespace Sys2Proof

/-- An encoded instruction: a REQ word (R77, 128 bits for `LEN_WIDTH` = 64) or a value of `PHASE[2:0]` (R80). -/
inductive Code where
  | req (w : BitVec 128)
  | phase (p : BitVec 3)
deriving DecidableEq, Repr

/-- Why a code is no instruction. -/
inductive DecodeError where
  /-- `PHASE = 111` is reserved (R80, R83). -/
  | reservedPhase
  /-- A byte that is no value of the 3-bit PHASE register. -/
  | notAPhase
  /-- Neither a one-byte PHASE code nor a 16-byte REQ word: the formats have one length each (R84). -/
  | badLength
deriving DecidableEq, Repr

/-- The field `crc1` of a REQ word, bits [31:0] (R77). -/
def reqCrc1 (w : BitVec 128) : Word := w.extractLsb' 0 32

/-- The field `crc2` of a REQ word, bits [63:32] (R77). -/
def reqCrc2 (w : BitVec 128) : Word := w.extractLsb' 32 32

/-- The field `length` of a REQ word, bits [64+LEN_WIDTH-1:64] (R77). -/
def reqLength (w : BitVec 128) : Len := w.extractLsb' 64 64

/-- The concatenation `req_len : req_crc2 : req_crc1` (R77). -/
def packReq (crc1 crc2 : Word) (length : Len) : BitVec 128 := length ++ crc2 ++ crc1

/-- Every REQ word of every value is a COMBINE request (R81). -/
def decodeReq (w : BitVec 128) : Instr := .combine (reqCrc1 w) (reqCrc2 w) (reqLength w)

/-- The transition each value of `PHASE[2:0]` selects (R80). -/
def decodePhase (p : BitVec 3) : Except DecodeError Instr :=
  if p = 0b000#3 then .ok .accept
  else if p = 0b001#3 then .ok .seed
  else if p = 0b010#3 then .ok .square
  else if p = 0b011#3 then .ok .apply
  else if p = 0b100#3 then .ok .advance
  else if p = 0b101#3 then .ok .finish
  else if p = 0b110#3 then .ok .release
  else .error .reservedPhase

/-- The decoder. -/
def decode : Code → Except DecodeError Instr
  | .req w => .ok (decodeReq w)
  | .phase p => decodePhase p

/-- The encoder, from R77 and R80. -/
def encode : Instr → Code
  | .combine crc1 crc2 length => .req (packReq crc1 crc2 length)
  | .accept => .phase 0b000#3
  | .seed => .phase 0b001#3
  | .square => .phase 0b010#3
  | .apply => .phase 0b011#3
  | .advance => .phase 0b100#3
  | .finish => .phase 0b101#3
  | .release => .phase 0b110#3

/-- Bytes as one number, the first byte holding bits 7..0 (the opcode table's numbering of bits). The ports are
word-parallel and no byte order arises in the hardware (R55). DESIGN CHOICE (Log 14). -/
def wordOfBytes (bytes : List Byte) : BitVec 128 :=
  bytes.foldr (fun b w => (w <<< 8) ||| b.zeroExtend 128) 0

/-- The `n` low bytes of a number, bits 7..0 first. -/
def bytesOfWord (n : Nat) (w : BitVec 128) : List Byte :=
  (List.range n).map fun i => w.extractLsb' (8 * i) 8

/-- The decoder over bytes: one byte is a PHASE code, in its low three bits, and 16 bytes are a REQ word. -/
def decodeBytes (bytes : List Byte) : Except DecodeError Instr :=
  match bytes.length with
  | 1 =>
    let w := wordOfBytes bytes
    if w.toNat < 8 then decodePhase (w.extractLsb' 0 3) else .error .notAPhase
  | 16 => decode (.req (wordOfBytes bytes))
  | _ => .error .badLength

/-- The encoder over bytes. -/
def encodeBytes (i : Instr) : List Byte :=
  match encode i with
  | .req w => bytesOfWord 16 w
  | .phase p => bytesOfWord 1 (p.zeroExtend 128)

/-- The bytes of a table word: a row of 1 to 32 bits is a PHASE row (its encoding is a 3-bit value of PHASE, one
byte), any other a REQ row, whose bits above `nbits` are 0. DESIGN CHOICE (Log 14). -/
def tableBytes (nbits w : Nat) : List Byte :=
  if 0 < nbits ∧ nbits ≤ 32 then
    if w < 256 then bytesOfWord 1 (BitVec.ofNat 128 w) else []
  else bytesOfWord 16 (BitVec.ofNat 128 w)

/-- The instruction the decoder reads from an instruction whose bits are `w`, numbered as the opcode table numbers
them. -/
def decodeTableWord (nbits w : Nat) : Option Instr :=
  match decodeBytes (tableBytes nbits w) with
  | .ok i => some i
  | .error _ => none

end Sys2Proof
end

