-- ==== Sys2Proof/Machine/Flags.lean ====
section
/-! DEFINITION. The conditions the block tests. It has no flags, condition codes or predicates (R22); the only
conditions are bit 0 and the zero test of LEN_R and the sign and zero of the request's `length`. -/

namespace Sys2Proof.Machine

/-- `length ≤s 0`: the signed comparison of the shortcut (R11, R151, D26). -/
def lenNonPositive (n : Len) : Bool := n.sle 0

/-- `LEN_R[0] = 1` (R124). -/
def lenBit0 (n : Len) : Bool := n.getLsbD 0

/-- `LEN_R >> 1`, logical (R125). -/
def lenShift (n : Len) : Len := n >>> 1

/-- `(LEN_R >> 1) = 0`, on the once-shifted value (R125, C7). -/
def lenLast (n : Len) : Bool := lenShift n == 0

end Sys2Proof.Machine
end

