-- ==== Sys2Proof/Machine/State.lean ====
section
/-! DEFINITION. The machine's state as plain data: the block's registers, exactly those of R20; the wires and the
content the host and the table agent hold (R17, R50, R70); and the model's own fields. -/

namespace Sys2Proof.Machine

/-- The phases of the engine (R32). The reserved code 111 has no constructor (R83, D28). -/
inductive Phase where
  /-- Waiting for a request. -/
  | idle
  /-- Reading table word K into seed row K of ODD. -/
  | seed
  /-- Computing the square of ODD into EVEN. -/
  | square
  /-- Conditionally applying EVEN to ACC. -/
  | apply
  /-- Swapping the buffers' roles and shifting LEN_R. -/
  | advance
  /-- Forming RES. -/
  | finish
  /-- Offering RES on the response port. -/
  | respond
deriving DecidableEq, Repr

/-- A request: what the host drives on `req_crc1`, `req_crc2` and `req_len` (R70, R77). -/
structure Request where
  crc1 : Word
  crc2 : Word
  length : Len
deriving DecidableEq, Repr

/-- One move of an agent (R17), landing between two transitions of the block. DESIGN CHOICE (Log 7). -/
inductive Move where
  /-- The block's turn: one transition, or one edge with `rst` = 1 (R80, R230). -/
  | block
  /-- The host issues COMBINE as one transaction, as a packed REQ word (R77, R81, R85). -/
  | command (w : BitVec 128)
  /-- The host offers a request on the request port, after those it already offers (R70, R158). -/
  | offer (r : Request)
  /-- The host drives `rst` (R70, R230). -/
  | setRst (b : Bool)
  /-- The host drives `rsp_ready` (R70, R154). -/
  | setRspReady (b : Bool)
  /-- The table agent drives `tbl_req_ready` (R70, R75). -/
  | setTblReqReady (b : Bool)
  /-- The table agent starts or stops answering the outstanding read (R70, R244). -/
  | setTblAnswers (b : Bool)
  /-- `TABLE[i] = v` (R85): the agent that owns the TABLE writes an entry (R50). -/
  | setTable (i : TableIndex) (v : Word)
  /-- The entries an operation in flight reads are being changed (R61), to a content the model does not learn: the
  operation's four words are unconstrained. DEDUCED (Log 6). The stored content stays, and later operations read it: DESIGN
  CHOICE (Log 23). -/
  | disturbTable
deriving DecidableEq, Repr

/-- Why the machine stops with a fault. The hardware raises no exception (R200). -/
inductive Fault where
  /-- Raised by the block's turn when the PHASE register holds the reserved code 111: stuck (R83, U5, D28). Safe:
  the hardware's behaviour there is not specified, and no state of the model holds that code. -/
  | reservedPhase
deriving DecidableEq, Repr

/-- Why a step has no meaning. -/
inductive Refusal where
  /-- Raised by an arm of `exec` whose instruction has no meaning yet; no arm is left so. Safe: the model stops. -/
  | notModelled (mnemonic : String)
deriving DecidableEq, Repr

/-- The TABLE space's storage: (address, byte) pairs, addresses strictly rising, none equal to what an unlisted
address reads as. Entry `i` is the four bytes at `4 * i` to `4 * i + 3`. DESIGN CHOICE (Log 4), DESIGN CHOICE (Log 5). -/
abbrev Memory := List Host.Cell

/-- The state. -/
structure State where
  /-- PHASE (R32). -/
  phase : Phase
  /-- K, the index of the next seed row (R29). -/
  k : BitVec 2
  /-- TBL_PEND: a table read has been issued and its data has not arrived (R30). -/
  tblPend : Bool
  /-- SEL, the ping-pong role selector, `false` for 0 (R27). -/
  sel : Bool
  /-- ACC, the accumulator (R24). -/
  acc : Word
  /-- CRC2_R, the request's `crc2` (R26). -/
  crc2R : Word
  /-- LEN_R, the remaining length (R25). -/
  lenR : Len
  /-- RES, the result (R31). -/
  res : Word
  /-- MAT_A (R28). -/
  matA : BitMatrix
  /-- MAT_B (R28). -/
  matB : BitMatrix
  /-- The input `rst` (R70). -/
  rst : Bool
  /-- The requests the host offers, oldest first: `req_valid` is 1 when there is one, and the head is on the data
  wires, so that a request stays unchanged until its transfer (R71, R243). DESIGN CHOICE (Log 9). -/
  reqs : List Request
  /-- The input `rsp_ready` (R70). -/
  rspReady : Bool
  /-- The input `tbl_req_ready` (R70). -/
  tblReqReady : Bool
  /-- Whether the table agent answers an outstanding read (R244). DEDUCED (Log 8). -/
  tblAnswers : Bool
  /-- The content of the TABLE space, owned by the table agent (R50). -/
  table : Memory
  /-- An entry the operation in flight reads has changed since its acceptance (R61); changes to come are found in
  `agenda`. DEDUCED (Log 6). -/
  tblDirty : Bool
  /-- The model's own: the moves to come, in order; when there is none the block moves. DESIGN CHOICE (Log 7). -/
  agenda : List Move
  /-- The model's own: how many free values have been drawn. DESIGN CHOICE (Log 3), DEDUCED (Log 6). -/
  draws : Nat
  /-- The model's own: the words the host has taken at response transfers, oldest first (R34, R158). DESIGN CHOICE (Log 19). -/
  responses : List Word
  /-- The model's own: the indices of the table requests made, oldest first (R34, R85). DESIGN CHOICE (Log 19). -/
  reads : List TableIndex
deriving DecidableEq, Repr

/-- The machine right after reset (R35, R230, R232): PHASE = IDLE, TBL_PEND = 0, `rst` released. R35 leaves the
other registers unspecified; here they are zeros: DESIGN CHOICE (Log 2). The agents' wires: DESIGN CHOICE (Log 7). -/
def State.reset : State where
  phase := .idle
  k := 0
  tblPend := false
  sel := false
  acc := 0
  crc2R := 0
  lenR := 0
  res := 0
  matA := BitMatrix.zero
  matB := BitMatrix.zero
  rst := false
  reqs := []
  rspReady := true
  tblReqReady := true
  tblAnswers := true
  table := []
  tblDirty := false
  agenda := []
  draws := 0
  responses := []
  reads := []

end Sys2Proof.Machine
end

