-- ==== Sys2Proof/Machine/Operands.lean ====
section
/-! DEFINITION. The operand forms: the request's fields (R77, R79), the seed row and table index that K names (R29,
R79, R120), and the constants of the initial odd matrix (R121). -/

namespace Sys2Proof.Machine

/-- The request a REQ word holds (R77). -/
def requestOf (crc1 crc2 : Word) (length : Len) : Request := ⟨crc1, crc2, length⟩

/-- The row of ODD that seed index `k` names (R120). -/
def seedRow (k : BitVec 2) : Fin 32 := ⟨k.toNat, Nat.lt_of_lt_of_le k.isLt (by decide)⟩

/-- The table index of seed row `k`: `16 << K`, that is `zext_8(1 << (K + 4))` (R75, R79). -/
def seedIndex (k : BitVec 2) : TableIndex := 16#8 <<< k.toNat

/-- Whether an entry is one of the four the block reads: 16, 32, 64, 128 (R52). -/
def isSeedIndex (i : TableIndex) : Bool := i == 16#8 || i == 32#8 || i == 64#8 || i == 128#8

/-- Fixed row `j` of the initial odd matrix, `1 << (j - 4)` for `j` in 4..31 (R121, C2). -/
def fixedRow (j : Fin 32) : Word := 1#32 <<< (j.val - 4)

/-- Loading the fixed rows: rows 4..31 become the constants, the seed rows 0..3 stay (R120, R121). -/
def loadFixedRows (m : BitMatrix) : BitMatrix :=
  BitMatrix.ofRows fun j => if j.val < 4 then m.row j else fixedRow j

/-- The initial odd matrix of four seed words (R121, R130). -/
def initialOdd (s0 s1 s2 s3 : Word) : BitMatrix :=
  BitMatrix.ofRows fun j =>
    if j.val = 0 then s0 else if j.val = 1 then s1 else if j.val = 2 then s2 else if j.val = 3 then s3
    else fixedRow j

end Sys2Proof.Machine
end

