-- ==== Sys2Proof/Machine/Gf2.lean ====
section
/-! DEFINITION. The units gf2_matrix_mult and gf2_matrix_square as the pure functions they are (R100 to R107), and
the reference functions of the engine and of COMBINE (R130, R152). -/

namespace Sys2Proof.Machine

/-- `gf2_mult(M, v)`: the XOR of the rows that the set bits of `v` select (R100). -/
def gf2Mult (m : BitMatrix) (v : Word) : Word :=
  (List.finRange 32).foldl (fun sum j => if v.getLsbD j.val then sum ^^^ m.row j else sum) 0

/-- `gf2_square(S)`: row `n` is `gf2_mult(S, S[n])`, every read of `S` as it was at entry (R104, R106). -/
def gf2Square (m : BitMatrix) : BitMatrix := BitMatrix.ofRows fun n => gf2Mult m (m.row n)

/-- The identity matrix `I[j] = 1 << j` (R14). -/
def identityMatrix : BitMatrix := BitMatrix.ofRows fun j => 1#32 <<< j.val

/-- `(R AND-by b)`: `R` when `b` = 1, else 0 (R101). -/
def andBy (r : Word) (b : Bool) : Word := if b then r else 0

/-- Row `i` of `m` for a row number of the grouped scan; the scan names no row outside 0..31 (R101). -/
def groupedRow (m : BitMatrix) (i : Nat) : Word := if h : i < 32 then m.row ⟨i, h⟩ else 0

/-- The loop of the grouped form, four bits of `w` at a time, while `w` is not 0 (R101). -/
def groupedLoop (m : BitMatrix) : Nat → Nat → Word → Word → Word
  | 0, _, _, sum => sum
  | fuel + 1, i, w, sum =>
    if w = 0 then sum
    else
      let sum1 := sum ^^^ andBy (groupedRow m i) (w.getLsbD 0)
      let sum2 := sum1 ^^^ andBy (groupedRow m (i + 1)) (w.getLsbD 1)
      let sum3 := sum2 ^^^ andBy (groupedRow m (i + 2)) (w.getLsbD 2)
      let sum4 := sum3 ^^^ andBy (groupedRow m (i + 3)) (w.getLsbD 3)
      groupedLoop m fuel (i + 4) (w >>> 4) sum4

/-- `gf2_mult_grouped(M, v)`, the source's form, which runs at most eight times (R101). -/
def gf2MultGrouped (m : BitMatrix) (v : Word) : Word := groupedLoop m 9 0 v 0

/-- The square's rows written one at a time into a destination `d`, in the given order (R107). -/
def squareRowsInto (m : BitMatrix) (order : List (Fin 32)) (d : BitMatrix) : BitMatrix :=
  order.foldl (fun d n => d.setRow n (gf2Mult m (m.row n))) d

/-- What R106 and R240 forbid: each row of the square written into the storage of the source before the next row is
computed. No transition uses it. -/
def squareInPlace (m : BitMatrix) : BitMatrix :=
  (List.finRange 32).foldl (fun d n => d.setRow n (gf2Mult d (d.row n))) m

/-- The square-and-multiply loop of R130 from `odd`, `acc` and `len`. The fuel bounds the iterations: a 64-bit
length is shifted to 0 in at most 64. -/
def engineLoop : Nat → BitMatrix → Word → Len → Word
  | 0, _, acc, _ => acc
  | fuel + 1, odd, acc, len =>
    let even := gf2Square odd
    let acc' := if lenBit0 len then gf2Mult even acc else acc
    if lenLast len then acc' else engineLoop fuel even acc' (lenShift len)

/-- `engine(s0, s1, s2, s3, c, n)` (R130). -/
def engine (s0 s1 s2 s3 c : Word) (n : Len) : Word :=
  engineLoop Config.lenWidth (initialOdd s0 s1 s2 s3) c n

/-- `combine(TABLE, crc1, crc2, length)`, the value of COMBINE (R152). -/
def combineValue (tab : TableIndex → Word) (crc1 crc2 : Word) (length : Len) : Word :=
  if lenNonPositive length then crc1
  else engine (tab 16) (tab 32) (tab 64) (tab 128) crc1 length ^^^ crc2

/-- The iterations of the loop, `floor(log2 n) + 1` (R127). -/
def iterations (n : Len) : Nat := Nat.log2 n.toNat + 1

/-- The transitions of an operation: `1 + 4 + 3·b + 1 + 1`, or ACCEPT and RELEASE on the shortcut (R127, R151). -/
def transitionCount (n : Len) : Nat := if lenNonPositive n then 2 else 7 + 3 * iterations n

end Sys2Proof.Machine
end

