-- ==== Sys2Proof/Machine/Ops.lean ====
section
/-! DEFINITION. The named operations over the TABLE space and the registers, and the one event that interrupts an
operation, reset (R207, R230). The block raises no exception and takes no trap (R200, R207), so there is no entry or
return to share. -/

namespace Sys2Proof.Machine

/-! ### The TABLE space -/

/-- What a byte nothing has written reads as. DESIGN CHOICE (Log 4). -/
def unlistedByte : Byte := 0

/-- One byte of the table's storage. -/
def memRead : Memory → Nat → Byte
  | [], _ => unlistedByte
  | (b, v) :: m, a => if a = b then v else memRead m a

/-- Writes one byte, keeping the canonical form. -/
def memWrite : Memory → Nat → Byte → Memory
  | [], a, v => if v = unlistedByte then [] else [(a, v)]
  | (b, w) :: m, a, v =>
    if a < b then (if v = unlistedByte then (b, w) :: m else (a, v) :: (b, w) :: m)
    else if a = b then (if v = unlistedByte then m else (a, v) :: m)
    else (b, w) :: memWrite m a v

/-- Canonical from address `lo` on: addresses rising from `lo`, inside the space's 1024 bytes, and no entry equal to
what an unlisted address reads as. -/
def memWfFrom : Nat → Memory → Bool
  | _, [] => true
  | lo, (a, v) :: m => decide (lo ≤ a) && decide (a < 1024) && decide (v ≠ unlistedByte) && memWfFrom (a + 1) m

/-- The canonical form of the table's storage. -/
def Memory.wf (m : Memory) : Bool := memWfFrom 0 m

/-- The address of byte lane `lane` of entry `i`, lane 0 holding bits [7:0]. DESIGN CHOICE (Log 5). -/
def laneAddr (i : TableIndex) (lane : Nat) : Nat := 4 * i.toNat + lane

/-- The whole 32-bit entry at index `i` (R54, R56, R57). -/
def tableRead (m : Memory) (i : TableIndex) : Word :=
  memRead m (laneAddr i 3) ++ memRead m (laneAddr i 2) ++ memRead m (laneAddr i 1) ++ memRead m (laneAddr i 0)

/-- `TABLE[i] = v` (R85): the table's owner writes a whole entry. The block never does (R51). -/
def tableWrite (m : Memory) (i : TableIndex) (v : Word) : Memory :=
  memWrite (memWrite (memWrite (memWrite m (laneAddr i 0) (v.extractLsb' 0 8)) (laneAddr i 1) (v.extractLsb' 8 8))
    (laneAddr i 2) (v.extractLsb' 16 8)) (laneAddr i 3) (v.extractLsb' 24 8)

/-! ### The matrix buffers in their roles -/

/-- `ODD = (SEL = 0) ? MAT_A : MAT_B` (R27). -/
def State.odd (s : State) : BitMatrix := if s.sel then s.matB else s.matA

/-- `EVEN = (SEL = 0) ? MAT_B : MAT_A` (R27). -/
def State.even (s : State) : BitMatrix := if s.sel then s.matA else s.matB

/-- Writes the buffer `ODD`. -/
def State.setOdd (s : State) (m : BitMatrix) : State :=
  { s with matA := if s.sel then s.matA else m, matB := if s.sel then m else s.matB }

/-- Writes the buffer `EVEN`. -/
def State.setEven (s : State) (m : BitMatrix) : State :=
  { s with matA := if s.sel then m else s.matA, matB := if s.sel then s.matB else m }

/-! ### The table port's reads -/

/-- A table request transfer: TBL_PEND <- 1, the index seen on the port recorded (R75). DESIGN CHOICE (Log 19). -/
def State.issueRead (s : State) : State :=
  { s with tblPend := true, reads := s.reads ++ [seedIndex s.k] }

/-- The data half of SEED with the word `d`, a free value when `fresh`: TBL_PEND <- 0, ODD[K] <- d, then the next seed
row or, after the last, the fixed rows and SQUARE (R76, R120, R121). -/
def State.takeWord (s : State) (d : Word) (fresh : Bool) : State :=
  let s := { s with tblPend := false, draws := if fresh then s.draws + 1 else s.draws }
  let seeded := s.odd.setRow (seedRow s.k) d
  if s.k.toNat < 3 then { s.setOdd seeded with k := s.k + 1 }
  else { s.setOdd (loadFixedRows seeded) with phase := .square }

/-! ### The request port and reset -/

/-- The host offers a request, behind those already offered (R70, R206). -/
def State.offer (s : State) (r : Request) : State := { s with reqs := s.reqs ++ [r] }

/-- An agent drives an input wire (R70); any other move drives none. -/
def State.drive (s : State) : Move → State
  | .setRst b => { s with rst := b }
  | .setRspReady b => { s with rspReady := b }
  | .setTblReqReady b => { s with tblReqReady := b }
  | .setTblAnswers b => { s with tblAnswers := b }
  | .block => s
  | .command _ => s
  | .offer _ => s
  | .setTable _ _ => s
  | .disturbTable => s

/-- A rising edge with `rst` = 1: PHASE <- IDLE, TBL_PEND <- 0, every other register of the block a free value; no
transfer completes (R230, R231, R35). DESIGN CHOICE (Log 3). -/
def doReset (s : State) : State :=
  { s with
    phase := .idle
    tblPend := false
    k := Config.resetK s.draws
    sel := Config.resetSel s.draws
    acc := Config.resetAcc s.draws
    crc2R := Config.resetCrc2 s.draws
    lenR := Config.resetLen s.draws
    res := Config.resetRes s.draws
    matA := Config.resetMatA s.draws
    matB := Config.resetMatB s.draws
    draws := s.draws + 1 }

end Sys2Proof.Machine
end

