-- ==== Sys2Proof/Machine/Ports.lean ====
section
/-! DEFINITION. The ports of the block as functions of the state (R70 to R76): its outputs, and the transfers that
happen at an edge. -/

namespace Sys2Proof.Machine

/-- `req_valid`: the host offers a request (R70). -/
def State.reqValid (s : State) : Bool := !s.reqs.isEmpty

/-- `req_ready = (PHASE = IDLE) & ~rst` (R72). -/
def State.reqReady (s : State) : Bool := decide (s.phase = .idle) && !s.rst

/-- `rsp_valid = (PHASE = RESPOND) & ~rst` (R73). -/
def State.rspValid (s : State) : Bool := decide (s.phase = .respond) && !s.rst

/-- `rsp_crc`: RES while `rsp_valid` = 1, else an unspecified value, here whatever the caller gives (R73, D29, U4).
DESIGN CHOICE (Log 17). -/
def State.rspCrc (s : State) (unspecified : Word) : Word := if s.rspValid then s.res else unspecified

/-- `busy = (PHASE ≠ IDLE) & ~rst` (R74). -/
def State.busy (s : State) : Bool := decide (s.phase ≠ .idle) && !s.rst

/-- `tbl_req_valid = (PHASE = SEED) & (TBL_PEND = 0) & ~rst` (R75). -/
def State.tblReqValid (s : State) : Bool := decide (s.phase = .seed) && !s.tblPend && !s.rst

/-- `tbl_idx = 16 << K` (R75). -/
def State.tblIdx (s : State) : TableIndex := seedIndex s.k

/-- `tbl_rsp_valid`: never without an outstanding request (R76, R244 (b)). DEDUCED (Log 8), DEDUCED (Log 10). -/
def State.tblRspValid (s : State) : Bool := s.tblPend && s.tblAnswers

/-- A request transfer: `req_valid` and `req_ready` at an edge with `rst` = 0 (R71). -/
def State.reqTransfer (s : State) : Bool := s.reqValid && s.reqReady && !s.rst

/-- A response transfer (R71). -/
def State.rspTransfer (s : State) : Bool := s.rspValid && s.rspReady && !s.rst

/-- A table request transfer (R71, R75). -/
def State.tblReqTransfer (s : State) : Bool := s.tblReqValid && s.tblReqReady && !s.rst

/-- A table response transfer: `tbl_rsp_valid` = 1, TBL_PEND = 1 and `rst` = 0 (R71). -/
def State.tblRspTransfer (s : State) : Bool := s.tblRspValid && s.tblPend && !s.rst

end Sys2Proof.Machine
end

