-- ==== Sys2Proof/Machine/Transitions.lean ====
section
/-! DEFINITION. The transitions of the block as functions of the state (R120 to R125, R150 to R155). Each reads the
state at its start and writes it at its end (R13). PHASE, which selects the transition, is what the block's turn fetches
and decodes (R80); a transition does not test it again. DESIGN CHOICE (Log 12). -/

namespace Sys2Proof.Machine

/-- SEED with the word `d` (R120): with the request accepted and answered, one atomic read of a table word into its
seed row. A table agent that does not accept the request leaves it offered (R75), and one that does not answer leaves
it outstanding (R30, R76); the block then waits in SEED (R129). DEDUCED (Log 8). -/
def seedWith (d : Word) (fresh : Bool) (s : State) : State :=
  if s.tblPend || s.tblReqReady then
    let s := if s.tblPend then s else s.issueRead
    if s.tblAnswers then s.takeWord d fresh else s
  else s

/-- SQUARE: `EVEN <- gf2_square(ODD)`, PHASE <- APPLY (R123). -/
def doSquare (s : State) : State := { s.setEven (gf2Square s.odd) with phase := .apply }

/-- APPLY: `if LEN_R[0] = 1 then ACC <- gf2_mult(EVEN, ACC)`, PHASE <- ADVANCE (R124). -/
def doApply (s : State) : State :=
  { s with acc := if lenBit0 s.lenR then gf2Mult s.even s.acc else s.acc, phase := .advance }

/-- ADVANCE: SEL <- ~SEL, LEN_R <- LEN_R >> 1, and FINISH if the shifted value is 0, else SQUARE (R125, C7). -/
def doAdvance (s : State) : State :=
  { s with
    sel := !s.sel
    lenR := lenShift s.lenR
    phase := if lenLast s.lenR then .finish else .square }

/-- ACCEPT (R150, R151): takes the offered request, or waits in IDLE when there is none (R32). A new operation
starts with the table as it is now (R60). -/
def doAccept (s : State) : State :=
  match s.reqs with
  | [] => s
  | r :: rest =>
    { s with
      reqs := rest
      acc := r.crc1
      crc2R := r.crc2
      lenR := r.length
      k := 0
      sel := false
      tblDirty := false
      res := if lenNonPositive r.length then r.crc1 else s.res
      phase := if lenNonPositive r.length then .respond else .seed }

/-- FINISH: `RES <- ACC ⊕ CRC2_R`, PHASE <- RESPOND (R153). -/
def doFinish (s : State) : State := { s with res := s.acc ^^^ s.crc2R, phase := .respond }

/-- RELEASE: at the response transfer PHASE <- IDLE, and the host has RES (R155); until the host is ready nothing
changes (R154). -/
def doRelease (s : State) : State :=
  if s.rspReady then { s with phase := .idle, responses := s.responses ++ [s.res] } else s

/-- The transition PHASE selects (R80), with SEED as given. -/
def transitionWith (seed : State → State) (s : State) : State :=
  match s.phase with
  | .idle => doAccept s
  | .seed => seed s
  | .square => doSquare s
  | .apply => doApply s
  | .advance => doAdvance s
  | .finish => doFinish s
  | .respond => doRelease s

end Sys2Proof.Machine
end

