-- ==== Sys2Proof/Machine/InFlight.lean ====
section
/-! DEFINITION. The words an operation reads (R54, R60, R61). When an entry it reads changes anywhere between the
acceptance of its request and the acceptance of its response, each of its four words is a draw, those answered before
the change included. Changes that have happened are in `tblDirty`; those to come are in `agenda`, which is all the
other agents will do. DEDUCED (Log 6). -/

namespace Sys2Proof.Machine

/-- Whether a move changes an entry the block reads: a write of a new content, or a disturbance (R52, R61). -/
def changesReadEntry (table : Memory) : Move → Bool
  | .setTable i v => isSeedIndex i && decide (tableRead table i ≠ v)
  | .disturbTable => true
  | .block => false
  | .command _ => false
  | .offer _ => false
  | .setRst _ => false
  | .setRspReady _ => false
  | .setTblReqReady _ => false
  | .setTblAnswers _ => false

/-- The course of the operation in flight over one of the block's turns. The words read do not bear on it: no
transition's next phase depends on a matrix or on ACC. -/
def courseTurn (s : State) : State := if s.rst then doReset s else transitionWith (seedWith 0 false) s

/-- Whether an entry the operation in flight reads changes in the moves to come, before its response is accepted or a
reset abandons it. -/
def changesInFlight : List Move → State → Bool
  | [], _ => false
  | m :: rest, s =>
    if s.phase = .idle then false
    else if changesReadEntry s.table m then true
    else changesInFlight rest (if m = .block then courseTurn s else s.drive m)

/-- Whether the operation's words are draws: an entry it reads has changed or will change before its response is
accepted (R61). -/
def State.unsettled (s : State) : Bool := s.tblDirty || changesInFlight s.agenda s

/-- The same, asked in a SEED transition, whose own turn is off the agenda and not yet taken. -/
def State.wordDrawn (s : State) : Bool := s.tblDirty || changesInFlight s.agenda (seedWith 0 false s)

/-- `tbl_rsp_data`, the word that answers the outstanding read: the entry's content at `tbl_idx`, or a draw (R54, R61,
R244 (d)). -/
def State.tblRspData (s : State) : Word :=
  if s.wordDrawn then Config.tableDraw s.draws else tableRead s.table (seedIndex s.k)

/-- SEED (R120). -/
def doSeed (s : State) : State := seedWith s.tblRspData s.wordDrawn s

/-- The transition PHASE selects (R80). -/
def blockTransition (s : State) : State := transitionWith doSeed s

end Sys2Proof.Machine
end

