-- ==== Sys2Proof/Machine/Combiner.lean ====
section
/-! DEFINITION. crc_stream_combiner: the meanings of COMBINE, ACCEPT, FINISH and RELEASE (R150 to R155). -/

namespace Sys2Proof.Machine

/-- Transitions of the block until it is back in IDLE, at most `fuel` of them. -/
def runOperation : Nat → State → State
  | 0, s => s
  | fuel + 1, s =>
    let t := blockTransition s
    if t.phase = .idle then t else runOperation fuel t

/-- An operation from the acceptance of the oldest request, with no other agent moving; `unsettled` says that an entry
it reads changes before its response (R61). -/
def runFromAccept (unsettled : Bool) (s : State) : State :=
  runOperation (Config.maxTransitions - 1) { doAccept { s with agenda := [] } with tblDirty := unsettled }

/-- COMBINE (R85, R152): the host offers the request and, when the block can accept it at once, the operation runs:
ACCEPT, the engine, FINISH and RELEASE. Otherwise the request waits on the port (R206). When an agent that does not
respond leaves the operation in flight, an entry changed before its response makes its words draws (R61). DESIGN CHOICE
(Log 11). -/
def doCombine (r : Request) (s : State) : State :=
  if s.reqReady && s.reqs.isEmpty then
    let t := runFromAccept false (s.offer r)
    { (if changesInFlight s.agenda t then runFromAccept true (s.offer r) else t) with agenda := s.agenda }
  else s.offer r

/-- The meaning of COMBINE. -/
def execCombine (crc1 crc2 : Word) (length : Len) (s : State) : Host.Outcome State Fault Refusal :=
  .next (doCombine (requestOf crc1 crc2 length) s)

/-- The meaning of ACCEPT. -/
def execAccept (s : State) : Host.Outcome State Fault Refusal := .next (doAccept s)

/-- The meaning of FINISH. -/
def execFinish (s : State) : Host.Outcome State Fault Refusal := .next (doFinish s)

/-- The meaning of RELEASE. -/
def execRelease (s : State) : Host.Outcome State Fault Refusal := .next (doRelease s)

end Sys2Proof.Machine
end

