-- ==== Sys2Proof/Machine/Engine.lean ====
section
/-! DEFINITION. crc_exponentiation_engine: the meanings of SEED, SQUARE, APPLY and ADVANCE (R120 to R125). -/

namespace Sys2Proof.Machine

/-- The meaning of SEED. -/
def execSeed (s : State) : Host.Outcome State Fault Refusal := .next (doSeed s)

/-- The meaning of SQUARE. -/
def execSquare (s : State) : Host.Outcome State Fault Refusal := .next (doSquare s)

/-- The meaning of APPLY. -/
def execApply (s : State) : Host.Outcome State Fault Refusal := .next (doApply s)

/-- The meaning of ADVANCE. -/
def execAdvance (s : State) : Host.Outcome State Fault Refusal := .next (doAdvance s)

end Sys2Proof.Machine
end

