-- ==== Sys2Proof/Machine/Dispatch.lean ====
section
/-! DEFINITION. One arm per instruction: each calls that instruction's own meaning. -/

namespace Sys2Proof.Machine

/-- The effect of an instruction. -/
def exec (i : Instr) (s : State) : Host.Outcome State Fault Refusal :=
  match i with
  | .combine crc1 crc2 length => Sys2Proof.Machine.execCombine crc1 crc2 length s
  | .accept => Sys2Proof.Machine.execAccept s
  | .seed => Sys2Proof.Machine.execSeed s
  | .square => Sys2Proof.Machine.execSquare s
  | .apply => Sys2Proof.Machine.execApply s
  | .advance => Sys2Proof.Machine.execAdvance s
  | .finish => Sys2Proof.Machine.execFinish s
  | .release => Sys2Proof.Machine.execRelease s

end Sys2Proof.Machine
end

