-- ==== Sys2Proof/Machine/Turn.lean ====
section
/-! DEFINITION. Whose turn it is, and what each agent's move does (R17, R158, R244). The block's turn fetches the
PHASE register, decodes it and runs the transition it selects (R80). -/

namespace Sys2Proof.Machine

/-- The encoding of PHASE (R80). -/
def phaseBits : Phase → BitVec 3
  | .idle => 0b000
  | .seed => 0b001
  | .square => 0b010
  | .apply => 0b011
  | .advance => 0b100
  | .finish => 0b101
  | .respond => 0b110

/-- The phase a value of `PHASE[2:0]` names; `111` is reserved (R80, R83). -/
def phaseOfBits (p : BitVec 3) : Option Phase :=
  if p = 0b000#3 then some .idle
  else if p = 0b001#3 then some .seed
  else if p = 0b010#3 then some .square
  else if p = 0b011#3 then some .apply
  else if p = 0b100#3 then some .advance
  else if p = 0b101#3 then some .finish
  else if p = 0b110#3 then some .respond
  else none

/-- The block's turn: with `rst` = 1 the reset edge, which overrides everything (R206, R230), else the transition
PHASE selects (R80); a reserved PHASE is stuck (R83, U5). -/
def blockTurn (s : State) : Host.Outcome State Fault Refusal :=
  if s.rst then .next (doReset s)
  else
    match decode (.phase (phaseBits s.phase)) with
    | .ok i => exec i s
    | .error _ => .fault .reservedPhase

/-- `TABLE[i] = v` (R85), with a change of an entry that an operation in flight reads recorded (R60, R61). DEDUCED
(Log 6). -/
def writeTable (s : State) (i : TableIndex) (v : Word) : State :=
  { s with
    table := tableWrite s.table i v
    tblDirty := s.tblDirty || (decide (s.phase ≠ .idle) && changesReadEntry s.table (.setTable i v)) }

/-- The entries an operation in flight reads are being changed, to a content the model does not learn (R61): DEDUCED
(Log 6). The change is passing: `table` keeps its content, which the next operation reads with no draw, and a change that
lasts is `setTable`. DESIGN CHOICE (Log 23). -/
def disturb (s : State) : State := { s with tblDirty := s.tblDirty || decide (s.phase ≠ .idle) }

/-- One move. -/
def moveTurn (m : Move) (s : State) : Host.Outcome State Fault Refusal :=
  match m with
  | .block => blockTurn s
  | .command w => exec (decodeReq w) s
  | .offer r => .next (s.offer r)
  | .setRst b => .next (s.drive (.setRst b))
  | .setRspReady b => .next (s.drive (.setRspReady b))
  | .setTblReqReady b => .next (s.drive (.setTblReqReady b))
  | .setTblAnswers b => .next (s.drive (.setTblAnswers b))
  | .setTable i v => .next (writeTable s i v)
  | .disturbTable => .next (disturb s)

/-- The next step: the head of the agenda, or the block's turn when the agenda is empty. DESIGN CHOICE (Log 7). -/
def turn (s : State) : Host.Outcome State Fault Refusal :=
  match s.agenda with
  | [] => blockTurn s
  | m :: rest => moveTurn m { s with agenda := rest }

/-- The moves of RESET: `rst` = 1 for one rising edge (R85). -/
def resetMoves : List Move := [.setRst true, .block, .setRst false]

/-- `s` with the instruction `i` of bits `w` where the next step fetches: a REQ word as the host's next command, a
PHASE value in the PHASE register with the block to move and the transfer that the transition is taken at available:
for ACCEPT a request on the port, whose fields have no bits in the row and are 0 (R150); for SEED a table agent that
accepts and answers (R120); for RELEASE a host that accepts the response (R155). DESIGN CHOICE (Log 13). -/
def placeInstr (s : State) (i : Instr) (w : Nat) : State :=
  match i with
  | .combine _ _ _ => { s with agenda := .command (BitVec.ofNat 128 w) :: s.agenda }
  | _ =>
    match phaseOfBits (BitVec.ofNat 3 w) with
    | none => s
    | some p =>
      { s with
        phase := p
        rst := false
        agenda := []
        reqs := if p = .idle then ⟨0, 0, 0⟩ :: s.reqs else s.reqs
        tblReqReady := if p = .seed then true else s.tblReqReady
        tblAnswers := if p = .seed then true else s.tblAnswers
        rspReady := if p = .respond then true else s.rspReady }

end Sys2Proof.Machine
end

