-- ==== Sys2Proof/Machine/Step.lean ====
section
/-! DEFINITION. The step of the machine. -/

namespace Sys2Proof.Machine

/-- One step: one move of one agent. -/
def step (s : State) : Host.Outcome State Fault Refusal := Sys2Proof.Machine.turn s

/-- `s` with the opcode table's word `w` stored where `step` fetches its next instruction; unchanged when the decoder
reads no instruction from it. DESIGN CHOICE (Log 13). -/
def State.withFetchWord (s : State) (nbits w : Nat) : State :=
  match decodeTableWord nbits w with
  | some i => Sys2Proof.Machine.placeInstr s i w
  | none => s

end Sys2Proof.Machine
end

