-- ==== Sys2Proof/Machine/Crc.lean ====
section
/-! DEFINITION. What the block's result means under the caller's contract (R122, R156, R157): the reflected CRC
register, its lookup table and the CRC of a byte stream. The spec supplies these definitions from general
knowledge (G1, G2 of 93_implementation_defined.md); no transition uses them. PRESUMED (Log 18). -/

namespace Sys2Proof.Machine

/-- One zero bit appended to the reflected register: `c <- (c >> 1) ⊕ (c[0] ? P : 0)` (G1). -/
def crcShift (poly c : Word) : Word := (c >>> 1) ^^^ andBy poly (c.getLsbD 0)

/-- `n` zero bits appended. -/
def crcShifts (poly : Word) : Nat → Word → Word
  | 0, c => c
  | n + 1, c => crcShifts poly n (crcShift poly c)

/-- The reflected lookup table of a polynomial: entry `i` is the register after eight steps from `i` (G1). -/
def reflectedTable (poly : Word) (i : TableIndex) : Word := crcShifts poly 8 (i.zeroExtend 32)

/-- The register after one more byte of the stream. -/
def crcByte (poly c : Word) (b : Byte) : Word := crcShifts poly 8 (c ^^^ b.zeroExtend 32)

/-- The standard CRC-32 computation under `poly`: reflected register, initial value and final XOR `0xFFFFFFFF`
(G2). -/
def crc32 (poly : Word) (bytes : List Byte) : Word := bytes.foldl (crcByte poly) 0xFFFFFFFF ^^^ 0xFFFFFFFF

/-- The length input for a stream. -/
def lengthOf (bytes : List Byte) : Len := BitVec.ofNat 64 bytes.length

/-- The map of a matrix iterated: `M^n` applied to a vector (R14). -/
def matrixPower (m : BitMatrix) : Nat → Word → Word
  | 0, v => v
  | n + 1, v => gf2Mult m (matrixPower m n v)

/-- `k` successive squarings (R105). -/
def squareTimes (m : BitMatrix) : Nat → BitMatrix
  | 0 => m
  | k + 1 => gf2Square (squareTimes m k)

end Sys2Proof.Machine
end

