-- ==== Sys2Proof/Machine/Timing.lean ====
section
/-! DEFINITION. The cycle count of an operation as a formula over the open latency parameters (R9, R250, R252). The
model is untimed and no other definition uses it. DESIGN CHOICE (Log 16). -/

namespace Sys2Proof.Machine

/-- The latency parameters, in clock cycles (R9). -/
structure Latency where
  accept : Nat
  seed : Nat
  square : Nat
  apply : Nat
  advance : Nat
  finish : Nat
  table : Nat
deriving DecidableEq, Repr

/-- Every parameter is a finite positive number of cycles (R9, R252). -/
def Latency.positive (t : Latency) : Bool :=
  decide (1 ≤ t.accept) && decide (1 ≤ t.seed) && decide (1 ≤ t.square) && decide (1 ≤ t.apply)
    && decide (1 ≤ t.advance) && decide (1 ≤ t.finish) && decide (1 ≤ t.table)

/-- Cycles from the request transfer to `rsp_valid` (R252). -/
def operationCycles (t : Latency) (n : Len) : Nat :=
  if lenNonPositive n then t.accept
  else t.accept + 4 * (t.seed + t.table) + iterations n * (t.square + t.apply + t.advance) + t.finish

end Sys2Proof.Machine
end

