-- ==== Sys2Proof/Safety.lean ====
section
/-! DEFINITION. The terms claims use: the invariant of the machine, and the conditions under which an operation can
start and complete. -/

namespace Sys2Proof.Machine

/-- The phases of the engine, in which an operation with `length >s 0` is under way (R25). -/
def Phase.inEngine : Phase → Bool
  | .seed => true
  | .square => true
  | .apply => true
  | .advance => true
  | .idle => false
  | .finish => false
  | .respond => false

/-- The invariant every step keeps. -/
structure State.Inv (s : State) : Prop where
  /-- The table's storage keeps its canonical form. -/
  table_wf : s.table.wf = true
  /-- In SEED, SQUARE, APPLY and ADVANCE, LEN_R is positive as a signed value (R25). -/
  len_positive : s.phase.inEngine = true → lenNonPositive s.lenR = false
  /-- The loop ends when LEN_R is 0 (R125, R129). -/
  len_done : s.phase = .finish → s.lenR = 0
  /-- A table read is outstanding only in SEED (R75, R76, R206). -/
  pend_in_seed : s.tblPend = true → s.phase = .seed
  /-- After the last seed row K stays 3 (R120). -/
  k_last : s.phase = .square ∨ s.phase = .apply ∨ s.phase = .advance ∨ s.phase = .finish → s.k = 3

/-- The table agent accepts and answers each read at once. -/
structure State.TablePrompt (s : State) : Prop where
  accepts : s.tblReqReady = true
  answers : s.tblAnswers = true

/-- Both agents respond at once: the table agent accepts and answers, and the host accepts the response. -/
structure State.Responsive (s : State) : Prop where
  accepts : s.tblReqReady = true
  answers : s.tblAnswers = true
  takes : s.rspReady = true

/-- The input wires after the moves of the agenda. -/
def State.afterAgenda (s : State) : State := s.agenda.foldl State.drive s

/-- The table agent answers each request in finite time (R244 (a), R251): it may delay through any number of moves,
and from the end of the agenda on, where only the block moves, it accepts and answers. -/
def State.AnswersEventually (s : State) : Prop := s.afterAgenda.TablePrompt

/-- The host eventually raises `rsp_ready` (R251): it may delay through any number of moves. -/
def State.TakesEventually (s : State) : Prop := s.afterAgenda.rspReady = true

/-- No reset: `rst` is 0 and no move to come raises it. -/
def State.NoReset (s : State) : Prop := s.rst = false ∧ .setRst true ∉ s.agenda

/-- The block waits in IDLE with `rst` = 0 and no read outstanding: it can accept a request (R72). -/
structure State.Ready (s : State) : Prop where
  idle : s.phase = .idle
  rst : s.rst = false
  pend : s.tblPend = false

end Sys2Proof.Machine
end

