-- ==== Sys2Proof/Certificates/Slice0/Obligations.lean ====
section
/-! DEFINITION. The statements for the provers. Each docstring names the rule of spec/ it formalises. Equations
`exec i s = .next { s with … }` state the frame too: every field not written in them is unchanged. -/

open Sys2Proof Sys2Proof.Machine

/-! ### Encodings -/

/-- Decode of encode is the identity on every well-formed instruction, over codes and over bytes (R77, R80). -/
def Obligations.DecodeEncodeRoundTrip : Prop :=
  ∀ i : Instr, i.wellFormed = true → decode (encode i) = .ok i ∧ decodeBytes (encodeBytes i) = .ok i

/-- No two codes decode to one instruction: encode of decode is the code (R77, R80, R81). -/
def Obligations.EncodeDecodeRoundTrip : Prop :=
  ∀ (c : Code) (i : Instr), decode c = .ok i → encode i = c

/-- Every REQ word is a COMBINE request, with `crc1` at [31:0], `crc2` at [63:32] and `length` at [127:64] (R77,
R81). -/
def Obligations.EveryReqWordIsCombine : Prop :=
  (∀ (crc1 crc2 : Word) (length : Len),
    decode (.req (length ++ crc2 ++ crc1)) = .ok (.combine crc1 crc2 length)) ∧
  (∀ w : BitVec 128, ∃ crc1 crc2 length,
    decode (.req w) = .ok (.combine crc1 crc2 length) ∧ w = length ++ crc2 ++ crc1)

/-- The PHASE encoding and the transition each value selects; 111 is reserved (R80). -/
def Obligations.PhaseEncoding : Prop :=
  (phaseBits .idle = 0b000 ∧ phaseBits .seed = 0b001 ∧ phaseBits .square = 0b010 ∧ phaseBits .apply = 0b011 ∧
    phaseBits .advance = 0b100 ∧ phaseBits .finish = 0b101 ∧ phaseBits .respond = 0b110) ∧
  (decode (.phase 0b000) = .ok .accept ∧ decode (.phase 0b001) = .ok .seed ∧ decode (.phase 0b010) = .ok .square ∧
    decode (.phase 0b011) = .ok .apply ∧ decode (.phase 0b100) = .ok .advance ∧
    decode (.phase 0b101) = .ok .finish ∧ decode (.phase 0b110) = .ok .release ∧
    decode (.phase 0b111) = .error .reservedPhase)

/-- Request words of 95_test_vectors.md section 3 (V-C1, V-B2, V-E6) decode as written there, and the PHASE word 100 of R80
decodes to ADVANCE. That a row of 8 bits is a PHASE row, and one of 128 a REQ row, is the model's DESIGN CHOICE (Log 14). -/
def Obligations.SpecWordsDecode : Prop :=
  decodeTableWord 128 0x0000000000000005131DA0709BE3E0A3 = some (.combine 0x9BE3E0A3 0x131DA070 5) ∧
  decodeTableWord 128 0xFFFFFFFFFFFFFFFF9ABCDEF012345678 = some (.combine 0x12345678 0x9ABCDEF0 (-1)) ∧
  decodeTableWord 128 0x400000000000000000000000FFFFFFFF =
    some (.combine 0xFFFFFFFF 0 4611686018427387904) ∧
  decodeTableWord 8 0b100 = some .advance

/-! ### Steps, turns and agents -/

/-- A step runs the decoded instruction: the one PHASE selects when the block moves (R80), the one the REQ word holds when the
host issues a command (R81). That the agenda says who moves is the model's DESIGN CHOICE (Log 7), and so is that a
command is run by one step (Log 11). Around `exec`, the step only takes the move off the agenda. -/
def Obligations.StepRunsDecoded : Prop :=
  ∀ (s : State) (i : Instr), i.wellFormed = true →
    (s.agenda = [] → s.rst = false → decode (.phase (phaseBits s.phase)) = .ok i → step s = exec i s) ∧
    (∀ rest, s.agenda = .block :: rest → s.rst = false → decode (.phase (phaseBits s.phase)) = .ok i →
      step s = exec i { s with agenda := rest }) ∧
    (∀ w rest, s.agenda = .command w :: rest → decode (.req w) = .ok i →
      step s = exec i { s with agenda := rest })

/-- What the other agents' moves change, and nothing else. The moves are the model's DESIGN CHOICE (Log 7): each input wire of
R70 is driven to the value of its move. That an offered request goes behind those already offered is a DESIGN CHOICE
(Log 9), which lets a request be offered earlier than R158 asks of a host. The flag of `disturbTable` is DEDUCED
(Log 6), and that it leaves the stored table as it was a DESIGN CHOICE (Log 23). -/
def Obligations.AgentMovesFrame : Prop :=
  ∀ (s : State) (rest : List Move) (r : Request) (b : Bool),
    (s.agenda = .offer r :: rest → step s = .next { s with agenda := rest, reqs := s.reqs ++ [r] }) ∧
    (s.agenda = .setRst b :: rest → step s = .next { s with agenda := rest, rst := b }) ∧
    (s.agenda = .setRspReady b :: rest → step s = .next { s with agenda := rest, rspReady := b }) ∧
    (s.agenda = .setTblReqReady b :: rest → step s = .next { s with agenda := rest, tblReqReady := b }) ∧
    (s.agenda = .setTblAnswers b :: rest → step s = .next { s with agenda := rest, tblAnswers := b }) ∧
    (s.agenda = .disturbTable :: rest →
      step s = .next { s with agenda := rest, tblDirty := s.tblDirty || decide (s.phase ≠ .idle) })

/-- `TABLE[i] = v` gives entry `i` the word `v`, leaves every other entry and every other field but `tblDirty` as they
were, and keeps the canonical form (R50, R85). -/
def Obligations.TableWriteThenRead : Prop :=
  ∀ (s : State) (rest : List Move) (i : TableIndex) (v : Word),
    s.agenda = .setTable i v :: rest → s.table.wf = true →
    ∃ t, step s = .next t ∧
      (∀ j, tableRead t.table j = if j = i then v else tableRead s.table j) ∧
      (∀ a, (∀ lane, lane < 4 → a ≠ laneAddr i lane) → memRead t.table a = memRead s.table a) ∧
      t.table.wf = true ∧
      t = { s with agenda := rest, table := t.table, tblDirty := t.tblDirty }

/-- What unsettles an operation (R60, R61; which changes do is DEDUCED, Log 6). A table write records a change exactly
when an operation is in flight and the entry is one of the four and gets a new content; an operation in flight with such
a write, or a disturbance, next is unsettled already; one with no change recorded and no table move to come is
settled. -/
def Obligations.TableChangeInFlight : Prop :=
  (∀ (s : State) (rest : List Move) (i : TableIndex) (v : Word), s.agenda = .setTable i v :: rest →
    (∃ t, step s = .next t ∧
      (t.tblDirty = true ↔ s.tblDirty = true ∨
        (s.phase ≠ .idle ∧ (i = 16 ∨ i = 32 ∨ i = 64 ∨ i = 128) ∧ tableRead s.table i ≠ v))) ∧
    (s.phase ≠ .idle → (i = 16 ∨ i = 32 ∨ i = 64 ∨ i = 128) → tableRead s.table i ≠ v → s.unsettled = true)) ∧
  (∀ (s : State) (rest : List Move), s.agenda = .disturbTable :: rest → s.phase ≠ .idle → s.unsettled = true) ∧
  (∀ s : State, s.tblDirty = false → (∀ m ∈ s.agenda, (∀ i v, m ≠ .setTable i v) ∧ m ≠ .disturbTable) →
    s.unsettled = false ∧ s.wordDrawn = false)

/-- An operation is unsettled as a whole or not at all: no step changes it before the response is accepted. So a change of
a read entry at any moment of the operation makes draws of the words read before it as well as of those read after it
(R61; DEDUCED, Log 6). -/
def Obligations.UnsettledUntilResponse : Prop :=
  ∀ s t : State, s.table.wf = true → s.phase ≠ .idle → step s = .next t → t.phase ≠ .idle → t.unsettled = s.unsettled

/-- In an unsettled operation each of the four words read is a free value, a fresh draw for each read, whether the change
has happened or is still to come (R61, U6; DEDUCED, Log 6). -/
def Obligations.AllFourWordsDrawn : Prop :=
  ∀ s : State, s.phase = .seed → s.k = 0 → s.tblPend = false → s.rst = false → s.TablePrompt → s.unsettled = true →
    (s.agenda = [] ∨ ∃ rest, s.agenda = [.block, .block, .block, .block] ++ rest) →
    ∃ t, Sys2Proof.core.run 4 s = .next t ∧ t.phase = .square ∧ t.draws = s.draws + 4 ∧
      t.reads = s.reads ++ [16, 32, 64, 128] ∧
      t.odd = initialOdd (Config.tableDraw s.draws) (Config.tableDraw (s.draws + 1)) (Config.tableDraw (s.draws + 2))
        (Config.tableDraw (s.draws + 3))

/-- No step stops: the hardware raises no exception and no transition can fail (R200). -/
def Obligations.StepNeverStops : Prop := ∀ s : State, ∃ t, step s = .next t

/-! ### Reset -/

/-- The machine right after reset: IDLE, no read outstanding, ready for a request, no other output raised (R35,
R230, R232). -/
def Obligations.ResetState : Prop :=
  State.reset.phase = .idle ∧ State.reset.tblPend = false ∧ State.reset.rst = false ∧
  State.reset.reqReady = true ∧ State.reset.rspValid = false ∧ State.reset.busy = false ∧
  State.reset.tblReqValid = false

/-- A rising edge with `rst` = 1: PHASE <- IDLE, TBL_PEND <- 0, no transfer and no transition at that edge; the four
outputs are 0 while `rst` = 1; with `rst` released the block is ready (R230). -/
def Obligations.ResetEdge : Prop :=
  ∀ s : State, s.rst = true →
    (s.reqReady = false ∧ s.rspValid = false ∧ s.tblReqValid = false ∧ s.busy = false) ∧
    (s.reqTransfer = false ∧ s.rspTransfer = false ∧ s.tblReqTransfer = false ∧ s.tblRspTransfer = false) ∧
    (s.agenda = [] → ∃ t, step s = .next t ∧ t.phase = .idle ∧ t.tblPend = false ∧ t.reqs = s.reqs ∧
      t.responses = s.responses ∧ t.reads = s.reads ∧ t.table = s.table ∧ t.rst = s.rst ∧ t.agenda = s.agenda ∧
      t.rspReady = s.rspReady ∧ t.tblReqReady = s.tblReqReady ∧ t.tblAnswers = s.tblAnswers ∧
      t.tblDirty = s.tblDirty ∧ ({ t with rst := false } : State).reqReady = true)

/-- Reset during an operation abandons it and nothing of it reaches the next one: from any phase and any register contents,
with no request waiting and responsive agents, RESET and then COMBINE gives exactly one response, the value of the new
request (R231, R159). The moves of RESET and COMBINE are the model's DESIGN CHOICE (Log 7), and so is COMBINE as one
step (Log 11). -/
def Obligations.ResetAbandonsOperation : Prop :=
  ∀ (s : State) (crc1 crc2 : Word) (length : Len),
    s.reqs = [] → s.Responsive → s.agenda = resetMoves ++ [.command (packReq crc1 crc2 length)] →
    ∃ t, Sys2Proof.core.run 4 s = .next t ∧ t.phase = .idle ∧
      t.responses = s.responses ++ [combineValue (tableRead s.table) crc1 crc2 length]

/-! ### Ports -/

/-- The output ports, as the equations of R72 to R75: `req_ready`, `rsp_valid` with RES on `rsp_crc`, `busy`, which with
`rst` = 0 is the complement of `req_ready`, and `tbl_req_valid` with the index 16, 32, 64, 128 for K = 0, 1, 2, 3. -/
def Obligations.PortOutputs : Prop :=
  ∀ (s : State) (u : Word),
    (s.reqReady = true ↔ s.phase = .idle ∧ s.rst = false) ∧
    (s.rspValid = true ↔ s.phase = .respond ∧ s.rst = false) ∧
    (s.rspValid = true → s.rspCrc u = s.res) ∧
    (s.busy = true ↔ s.phase ≠ .idle ∧ s.rst = false) ∧
    (s.rst = false → s.busy = !s.reqReady) ∧
    (s.tblReqValid = true ↔ s.phase = .seed ∧ s.tblPend = false ∧ s.rst = false) ∧
    (s.k = 0 → s.tblIdx = 16) ∧ (s.k = 1 → s.tblIdx = 32) ∧ (s.k = 2 → s.tblIdx = 64) ∧
    (s.k = 3 → s.tblIdx = 128)

/-- No two transfers happen at one edge, and a table read is requested only when none is outstanding (R62, R76,
R206). -/
def Obligations.AtMostOneTransfer : Prop :=
  ∀ s : State, s.Inv →
    ¬ (s.reqTransfer = true ∧ s.rspTransfer = true) ∧ ¬ (s.reqTransfer = true ∧ s.tblReqTransfer = true) ∧
    ¬ (s.reqTransfer = true ∧ s.tblRspTransfer = true) ∧ ¬ (s.rspTransfer = true ∧ s.tblReqTransfer = true) ∧
    ¬ (s.rspTransfer = true ∧ s.tblRspTransfer = true) ∧ ¬ (s.tblReqTransfer = true ∧ s.tblRspTransfer = true) ∧
    (s.tblPend = true → s.tblReqValid = false)

/-- When each transfer happens: its `valid` and its `ready` are 1 and `rst` is 0; a table response needs TBL_PEND = 1
(R71 to R73, R75). The wires of the agents are the fields of Log 7, Log 8 and Log 9. -/
def Obligations.TransferConditions : Prop :=
  ∀ s : State,
    (s.reqTransfer = true ↔ s.reqs ≠ [] ∧ s.phase = .idle ∧ s.rst = false) ∧
    (s.rspTransfer = true ↔ s.phase = .respond ∧ s.rspReady = true ∧ s.rst = false) ∧
    (s.tblReqTransfer = true ↔ s.phase = .seed ∧ s.tblPend = false ∧ s.tblReqReady = true ∧ s.rst = false) ∧
    (s.tblRspTransfer = true ↔ s.tblPend = true ∧ s.tblAnswers = true ∧ s.rst = false)

/-- What the block's step does at each transfer: the oldest request is taken exactly at a request transfer, RES goes to the
host exactly at a response transfer, which leaves PHASE at IDLE, and a table index is requested exactly at a table request
transfer; `tbl_rsp_data` goes into its row at a table response transfer, and at a table request transfer that the agent
answers in the same step, else that request stays outstanding (R71, R72, R73, R75, R76). The folded read is DEDUCED
(Log 8), the records `responses` and `reads` are a DESIGN CHOICE (Log 19), and so is the list of requests (Log 9). -/
def Obligations.TransfersHappenAtStep : Prop :=
  ∀ s : State, s.Inv → s.agenda = [] →
    ∃ t, step s = .next t ∧
      (s.reqTransfer = true → ∃ r rest, s.reqs = r :: rest ∧ t.reqs = rest ∧ t.acc = r.crc1 ∧ t.crc2R = r.crc2 ∧
        t.lenR = r.length) ∧
      (s.reqTransfer = false → t.reqs = s.reqs) ∧
      (s.rspTransfer = true → t.phase = .idle ∧ t.responses = s.responses ++ [s.res]) ∧
      (s.rspTransfer = false → t.responses = s.responses) ∧
      (s.tblReqTransfer = true → t.reads = s.reads ++ [s.tblIdx]) ∧
      (s.tblReqTransfer = false → t.reads = s.reads) ∧
      (s.tblRspTransfer = true → t.tblPend = false ∧ t.odd.row (seedRow s.k) = s.tblRspData) ∧
      (s.tblReqTransfer = true → s.tblAnswers = true →
        t.tblPend = false ∧ t.odd.row (seedRow s.k) = s.tblRspData) ∧
      (s.tblReqTransfer = true → s.tblAnswers = false → t.tblPend = true ∧ t.odd = s.odd)

/-! ### The matrix units -/

/-- The laws of gf2_mult: linear, row selection, identity (R102). -/
def Obligations.Gf2MultLaws : Prop :=
  (∀ (m : BitMatrix) (u v : Word), gf2Mult m (u ^^^ v) = gf2Mult m u ^^^ gf2Mult m v) ∧
  (∀ m : BitMatrix, gf2Mult m 0 = 0) ∧
  (∀ (m : BitMatrix) (j : Fin 32), gf2Mult m (1#32 <<< j.val) = m.row j) ∧
  (∀ v : Word, gf2Mult identityMatrix v = v)

/-- Bit `i` of the product is the GF(2) sum over `j` of `v[j] · M[j][i]`: output bit `i` depends on input bit `j` when
`M[j][i]` = 1 (R11, R12, R100). -/
def Obligations.Gf2MultBits : Prop :=
  ∀ (m : BitMatrix) (v : Word) (i : Nat),
    (gf2Mult m v).getLsbD i =
      (List.finRange 32).foldl (fun b j => xor b (v.getLsbD j.val && (m.row j).getLsbD i)) false

/-- The grouped form gives the same value for every matrix and vector (R101). -/
def Obligations.GroupedFormAgrees : Prop :=
  ∀ (m : BitMatrix) (v : Word), gf2MultGrouped m v = gf2Mult m v

/-- Row `n` of the square is `gf2_mult(S, S[n])`; the identity and the zero matrix are their own squares (R104). -/
def Obligations.SquareRows : Prop :=
  (∀ (m : BitMatrix) (n : Fin 32), (gf2Square m).row n = gf2Mult m (m.row n)) ∧
  gf2Square identityMatrix = identityMatrix ∧ gf2Square BitMatrix.zero = BitMatrix.zero

/-- The composition law: the square is the matrix of `S∘S`, and `k` squarings give the matrix of `S^(2^k)` (R105). -/
def Obligations.SquareComposition : Prop :=
  (∀ (m : BitMatrix) (v : Word), gf2Mult (gf2Square m) v = gf2Mult m (gf2Mult m v)) ∧
  (∀ (m : BitMatrix) (k : Nat) (v : Word), gf2Mult (squareTimes m k) v = matrixPower m (2 ^ k) v)

/-- The rows of a square may be computed in any order, into any destination, as long as each is (R107). -/
def Obligations.SquareRowOrderFree : Prop :=
  ∀ (m d : BitMatrix) (order : List (Fin 32)), (∀ n, n ∈ order) → squareRowsInto m order d = gf2Square m

/-- Computing the square in place, row by row, computes a different matrix for some source (R106, R240). -/
def Obligations.SquareInPlaceDiffers : Prop := ∃ m : BitMatrix, squareInPlace m ≠ gf2Square m

/-! ### The transitions -/

/-- ACCEPT takes the oldest offered request: it latches the fields, K <- 0 and SEL <- 0, and goes to SEED, or with
`length ≤s 0` writes RES <- crc1 and goes to RESPOND; no other register changes (R150). That the host's requests are a
list, of which the oldest is on the port and the rest stay, is the model's DESIGN CHOICE (Log 9). The model's own flag
`tblDirty` is left open here. -/
def Obligations.AcceptCompletes : Prop :=
  ∀ (s : State) (r : Request) (rest : List Request), s.reqs = r :: rest →
    ∃ u : Bool,
      (0 < r.length.toInt →
        exec .accept s = .next
          { s with
            reqs := rest, acc := r.crc1, crc2R := r.crc2, lenR := r.length, k := 0, sel := false,
            tblDirty := u, phase := .seed }) ∧
      (r.length.toInt ≤ 0 →
        exec .accept s = .next
          { s with
            reqs := rest, acc := r.crc1, crc2R := r.crc2, lenR := r.length, k := 0, sel := false,
            tblDirty := u, res := r.crc1, phase := .respond })

/-- With no request offered there is no transfer, and ACCEPT changes nothing (R32, R71). -/
def Obligations.AcceptWaits : Prop := ∀ s : State, s.reqs = [] → exec .accept s = .next s

/-- SEED in a settled operation: the entry at index `16 << K` goes to ODD[K]; with K < 3, K <- K + 1 and PHASE stays; with
K = 3 the fixed rows are loaded and PHASE <- SQUARE (R120). When the read is made at all, with the request accepted now
or before and the agent answering, and TBL_PEND <- 0 after it, is R75 and R76 as folded by the model, DEDUCED (Log 8);
the index requested is recorded in `reads`, a DESIGN CHOICE (Log 19); which operations are settled is DEDUCED (Log 6). -/
def Obligations.SeedCompletes : Prop :=
  ∀ s : State,
    s.tblPend = true ∨ s.tblReqReady = true → s.tblAnswers = true → s.wordDrawn = false →
    (s.k ≠ 3 →
      exec .seed s = .next
        { s with
          matA := if s.sel then s.matA
            else s.matA.setRow (seedRow s.k) (tableRead s.table (16#8 <<< s.k.toNat))
          matB := if s.sel then s.matB.setRow (seedRow s.k) (tableRead s.table (16#8 <<< s.k.toNat)) else s.matB
          tblPend := false
          reads := if s.tblPend then s.reads else s.reads ++ [16#8 <<< s.k.toNat]
          k := s.k + 1 }) ∧
    (s.k = 3 →
      exec .seed s = .next
        { s with
          matA := if s.sel then s.matA else loadFixedRows (s.matA.setRow 3 (tableRead s.table 128))
          matB := if s.sel then loadFixedRows (s.matB.setRow 3 (tableRead s.table 128)) else s.matB
          tblPend := false
          reads := if s.tblPend then s.reads else s.reads ++ [128]
          phase := .square })

/-- SEED in an unsettled operation: the same transition with an unconstrained word, a fresh draw, in the place of the entry
(R61, U6). Which operations are unsettled is DEDUCED (Log 6), the folded read DEDUCED (Log 8), the record `reads` a
DESIGN CHOICE (Log 19). -/
def Obligations.SeedDrawsInUnsettledOperation : Prop :=
  ∀ s : State,
    s.tblPend = true ∨ s.tblReqReady = true → s.tblAnswers = true → s.wordDrawn = true →
    (s.k ≠ 3 →
      exec .seed s = .next
        { s with
          matA := if s.sel then s.matA else s.matA.setRow (seedRow s.k) (Config.tableDraw s.draws)
          matB := if s.sel then s.matB.setRow (seedRow s.k) (Config.tableDraw s.draws) else s.matB
          tblPend := false
          reads := if s.tblPend then s.reads else s.reads ++ [16#8 <<< s.k.toNat]
          draws := s.draws + 1
          k := s.k + 1 }) ∧
    (s.k = 3 →
      exec .seed s = .next
        { s with
          matA := if s.sel then s.matA else loadFixedRows (s.matA.setRow 3 (Config.tableDraw s.draws))
          matB := if s.sel then loadFixedRows (s.matB.setRow 3 (Config.tableDraw s.draws)) else s.matB
          tblPend := false
          reads := if s.tblPend then s.reads else s.reads ++ [128]
          draws := s.draws + 1
          phase := .square })

/-- The four SEED transitions leave in ODD the initial odd matrix of the four words read: rows 0..3 the entries 16, 32,
64, 128, row `j` = `1 << (j - 4)` for `j` in 4..31; the indices are requested in that order, once each (R52, R120,
R121). -/
def Obligations.SeedingBuildsInitialOdd : Prop :=
  ∀ s : State, s.agenda = [] → s.rst = false → s.phase = .seed → s.k = 0 → s.tblPend = false →
    s.tblDirty = false → s.TablePrompt →
    ∃ t, Sys2Proof.core.run 4 s = .next t ∧ t.phase = .square ∧ t.even = s.even ∧ t.acc = s.acc ∧ t.lenR = s.lenR ∧
      t.crc2R = s.crc2R ∧ t.sel = s.sel ∧ t.reads = s.reads ++ [16, 32, 64, 128] ∧
      t.odd.row 0 = tableRead s.table 16 ∧ t.odd.row 1 = tableRead s.table 32 ∧
      t.odd.row 2 = tableRead s.table 64 ∧ t.odd.row 3 = tableRead s.table 128 ∧
      (∀ j : Fin 32, 4 ≤ j.val → t.odd.row j = 1#32 <<< (j.val - 4))

/-- SEED waits for the table agent: a request not accepted stays offered and changes nothing; one accepted and not answered
leaves TBL_PEND = 1, and a read outstanding and not answered changes nothing (R75, R76, R129). R30 has TBL_PEND 0 between
transitions of the transition model; that a step may end with it at 1 is the model's, DEDUCED (Log 8), and the record
`reads` is a DESIGN CHOICE (Log 19). -/
def Obligations.SeedWaits : Prop :=
  ∀ s : State,
    (s.tblPend = false → s.tblReqReady = false → exec .seed s = .next s) ∧
    (s.tblPend = false → s.tblReqReady = true → s.tblAnswers = false →
      exec .seed s = .next { s with tblPend := true, reads := s.reads ++ [16#8 <<< s.k.toNat] }) ∧
    (s.tblPend = true → s.tblAnswers = false → exec .seed s = .next s)

/-- SQUARE: the buffer in the role EVEN becomes the square of the one in the role ODD, which is unchanged, and PHASE <-
APPLY (R123, R27). -/
def Obligations.SquareCompletes : Prop :=
  ∀ s : State,
    (s.sel = false → exec .square s = .next { s with matB := gf2Square s.matA, phase := .apply }) ∧
    (s.sel = true → exec .square s = .next { s with matA := gf2Square s.matB, phase := .apply })

/-- APPLY: with bit 0 of LEN_R set, ACC <- gf2_mult(EVEN, ACC), else ACC is unchanged; PHASE <- ADVANCE; an ACC of 0
stays 0 (R124). -/
def Obligations.ApplyCompletes : Prop :=
  ∀ s : State,
    (s.lenR.toNat % 2 = 1 → s.sel = false →
      exec .apply s = .next { s with acc := gf2Mult s.matB s.acc, phase := .advance }) ∧
    (s.lenR.toNat % 2 = 1 → s.sel = true →
      exec .apply s = .next { s with acc := gf2Mult s.matA s.acc, phase := .advance }) ∧
    (s.lenR.toNat % 2 = 0 → exec .apply s = .next { s with phase := .advance }) ∧
    (s.acc = 0 → exec .apply s = .next { s with phase := .advance })

/-- ADVANCE: SEL flips, so that the roles swap; LEN_R is shifted right by one; PHASE <- FINISH when the shifted value
is 0, that is when LEN_R was at most 1, else SQUARE (R125, C7). -/
def Obligations.AdvanceCompletes : Prop :=
  ∀ s : State,
    (s.lenR.toNat ≤ 1 → exec .advance s = .next { s with sel := !s.sel, lenR := 0, phase := .finish }) ∧
    (1 < s.lenR.toNat →
      exec .advance s = .next
        { s with sel := !s.sel, lenR := BitVec.ofNat 64 (s.lenR.toNat / 2), phase := .square }) ∧
    (∀ t, exec .advance s = .next t → t.odd = s.even ∧ t.even = s.odd)

/-- FINISH: RES <- ACC ⊕ CRC2_R and PHASE <- RESPOND; with CRC2_R = 0 that is ACC, with ACC = 0 it is CRC2_R (R153). -/
def Obligations.FinishCompletes : Prop :=
  ∀ s : State,
    exec .finish s = .next { s with res := s.acc ^^^ s.crc2R, phase := .respond } ∧
    (s.crc2R = 0 → exec .finish s = .next { s with res := s.acc, phase := .respond }) ∧
    (s.acc = 0 → exec .finish s = .next { s with res := s.crc2R, phase := .respond })

/-- RELEASE at a response transfer: PHASE <- IDLE, the host has RES, and every other register keeps its value (R155). The
model records what the host took in `responses`, a DESIGN CHOICE (Log 19). -/
def Obligations.ReleaseCompletes : Prop :=
  ∀ s : State, s.rspReady = true →
    exec .release s = .next { s with phase := .idle, responses := s.responses ++ [s.res] }

/-- RESPOND: the block drives `rsp_valid` = 1 and `rsp_crc` = RES and changes no register until the response transfer,
however long that takes; no new request is accepted meanwhile (R154). -/
def Obligations.RespondWaits : Prop :=
  ∀ (s : State) (u : Word) (n : Nat), s.phase = .respond → s.rst = false → s.agenda = [] → s.rspReady = false →
    Sys2Proof.core.run n s = .next s ∧ s.rspValid = true ∧ s.rspCrc u = s.res ∧ s.reqReady = false

/-- The other two waiting phases: without a request IDLE is quiescent; without an answer SEED goes on waiting, with no
response, however long that takes (R129, R160, R251, U10). -/
def Obligations.IdleAndSeedWait : Prop :=
  ∀ (s : State) (n : Nat), s.rst = false → s.agenda = [] →
    (s.phase = .idle → s.reqs = [] → Sys2Proof.core.run n s = .next s) ∧
    (s.phase = .seed → s.tblAnswers = false → ∃ t, Sys2Proof.core.run n s = .next t ∧ t.phase = .seed ∧
      t.responses = s.responses ∧ t.k = s.k ∧ t.matA = s.matA ∧ t.matB = s.matB)

/-- Liveness of an operation: if the table agent answers in finite time, through whatever delays, the operation reaches
RESPOND, whatever the host does with `rsp_ready` (R244 (a), R251). That a delay is a finite list of moves is the model's
DESIGN CHOICE (Log 7). -/
def Obligations.RespondReachedWhenTableAnswers : Prop :=
  ∀ s : State, s.phase ≠ .idle → s.NoReset → s.AnswersEventually →
    ∃ n t, Sys2Proof.core.run n s = .next t ∧ t.phase = .respond ∧ t.responses = s.responses

/-- Liveness of the response: if the host eventually raises `rsp_ready`, through whatever delays, the block reaches IDLE
and the host has RES, whatever the table agent does (R251). That a delay is a finite list of moves is the model's DESIGN
CHOICE (Log 7). -/
def Obligations.IdleReachedWhenHostTakes : Prop :=
  ∀ s : State, s.phase = .respond → s.NoReset → s.TakesEventually →
    ∃ n t, Sys2Proof.core.run n s = .next t ∧ t.phase = .idle ∧ t.responses = s.responses ++ [s.res]

/-- COMBINE where the block cannot accept at once waits on the request port, behind earlier requests, and changes
nothing else (R206). COMBINE as one step is a DESIGN CHOICE (Log 11), the list of requests another (Log 9). -/
def Obligations.CombineWaits : Prop :=
  ∀ (s : State) (crc1 crc2 : Word) (length : Len), s.phase ≠ .idle ∨ s.rst = true ∨ s.reqs ≠ [] →
    exec (.combine crc1 crc2 length) s = .next { s with reqs := s.reqs ++ [⟨crc1, crc2, length⟩] }

/-- COMBINE where the block accepts and an agent does not respond: the step ends with the operation waiting, and no
response. On the shortcut it waits in RESPOND with RES = crc1; else in SEED with the first read offered or outstanding,
or in RESPOND with RES the value of R152, or that of the drawn words when a change of a read entry is still to come
(R61, R129, R154). That COMBINE is one step which ends so is a DESIGN CHOICE (Log 11); the draws are DEDUCED (Log 6). -/
def Obligations.CombineStalls : Prop :=
  ∀ (s : State) (crc1 crc2 : Word) (length : Len), s.Ready → s.reqs = [] →
    (length.toInt ≤ 0 → s.rspReady = false →
      ∃ t, exec (.combine crc1 crc2 length) s = .next t ∧ t.phase = .respond ∧ t.res = crc1 ∧
        t.responses = s.responses ∧ t.reads = s.reads ∧ t.reqs = [] ∧ t.agenda = s.agenda) ∧
    (0 < length.toInt → s.tblReqReady = false →
      ∃ t, exec (.combine crc1 crc2 length) s = .next t ∧ t.phase = .seed ∧ t.tblPend = false ∧ t.k = 0 ∧
        t.acc = crc1 ∧ t.crc2R = crc2 ∧ t.lenR = length ∧ t.responses = s.responses ∧ t.reads = s.reads ∧
        t.reqs = [] ∧ t.agenda = s.agenda) ∧
    (0 < length.toInt → s.tblReqReady = true → s.tblAnswers = false →
      ∃ t, exec (.combine crc1 crc2 length) s = .next t ∧ t.phase = .seed ∧ t.tblPend = true ∧ t.k = 0 ∧
        t.acc = crc1 ∧ t.crc2R = crc2 ∧ t.lenR = length ∧ t.responses = s.responses ∧ t.reads = s.reads ++ [16] ∧
        t.reqs = [] ∧ t.agenda = s.agenda) ∧
    (0 < length.toInt → s.TablePrompt → s.rspReady = false →
      ∃ t, exec (.combine crc1 crc2 length) s = .next t ∧ t.phase = .respond ∧ t.responses = s.responses ∧
        t.reads = s.reads ++ [16, 32, 64, 128] ∧ t.reqs = [] ∧ t.agenda = s.agenda ∧ t.table = s.table ∧
        (changesInFlight s.agenda t = false →
          t.res = combineValue (tableRead s.table) crc1 crc2 length ∧ t.draws = s.draws) ∧
        (changesInFlight s.agenda t = true →
          t.res = engine (Config.tableDraw s.draws) (Config.tableDraw (s.draws + 1)) (Config.tableDraw (s.draws + 2))
            (Config.tableDraw (s.draws + 3)) crc1 length ^^^ crc2 ∧ t.draws = s.draws + 4))

/-- No instruction writes the TABLE: every byte reads as before (R51). Nor does one change `rst`, `rsp_ready`,
`tbl_req_ready`, whether the table agent answers, or the moves to come: these fields are the model's DESIGN CHOICE
(Log 7). -/
def Obligations.InstructionsKeepTable : Prop :=
  ∀ (i : Instr) (s t : State), exec i s = .next t →
    (∀ a, memRead t.table a = memRead s.table a) ∧ t.table = s.table ∧ t.rst = s.rst ∧ t.rspReady = s.rspReady ∧
    t.tblReqReady = s.tblReqReady ∧ t.tblAnswers = s.tblAnswers ∧ t.agenda = s.agenda

/-- After APPLY, ADVANCE and SQUARE in this order, the buffer APPLY used is unchanged, in the role ODD, EVEN is its square, and
ACC is what APPLY computes from that buffer: the fact R241 rests on. The model itself has no overlap, its transitions are
totally ordered: a DESIGN CHOICE (Log 16). -/
def Obligations.NextSquareKeepsAppliedBuffer : Prop :=
  ∀ s : State, s.phase = .apply → s.rst = false → s.agenda = [] → 1 < s.lenR.toNat →
    ∃ t, Sys2Proof.core.run 3 s = .next t ∧ t.phase = .apply ∧ t.odd = s.even ∧ t.even = gf2Square t.odd ∧
      t.acc = (if s.lenR.toNat % 2 = 1 then gf2Mult t.odd s.acc else s.acc)

/-! ### Invariants -/

/-- The machine right after reset meets the invariant. -/
def Obligations.ResetMeetsInvariant : Prop := State.reset.Inv

/-- Every step keeps the invariant: the table's canonical form, LEN_R positive in the engine's phases (R25) and 0 in
FINISH, TBL_PEND only in SEED, K = 3 after the last seed row. -/
def Obligations.StepKeepsInvariant : Prop := ∀ s t : State, s.Inv → step s = .next t → t.Inv

/-! ### Whole operations -/

/-- COMBINE, from any state in which the block can accept it and the agents respond at once: one response, the value of R152;
the reads are 16, 32, 64, 128 in that order, or none when `length ≤s 0`; and for `length >s 0` the value is
`O^(2·length)(crc1) ⊕ crc2` with `O` the initial odd matrix (R152, R52, R126). That the whole operation is one step is
the model's DESIGN CHOICE (Log 11); that none of its words is drawn, since no agent moves inside it, rests on Log 6
(DEDUCED) too. -/
def Obligations.CombineCompletes : Prop :=
  ∀ (s : State) (crc1 crc2 : Word) (length : Len), s.Ready → s.reqs = [] → s.Responsive →
    (∃ t, exec (.combine crc1 crc2 length) s = .next t ∧
      t.res = combineValue (tableRead s.table) crc1 crc2 length ∧
      t.responses = s.responses ++ [combineValue (tableRead s.table) crc1 crc2 length] ∧
      t.reads = s.reads ++ (if length.toInt ≤ 0 then [] else [16, 32, 64, 128]) ∧
      t.crc2R = crc2 ∧ t.phase = .idle ∧ t.tblPend = false ∧ t.reqs = [] ∧ t.table = s.table ∧ t.rst = s.rst ∧
      t.rspReady = s.rspReady ∧ t.tblReqReady = s.tblReqReady ∧ t.tblAnswers = s.tblAnswers ∧
      t.agenda = s.agenda ∧ t.draws = s.draws) ∧
    (length.toInt ≤ 0 → combineValue (tableRead s.table) crc1 crc2 length = crc1) ∧
    (0 < length.toInt →
      combineValue (tableRead s.table) crc1 crc2 length =
        matrixPower (initialOdd (tableRead s.table 16) (tableRead s.table 32) (tableRead s.table 64)
          (tableRead s.table 128)) (2 * length.toNat) crc1 ^^^ crc2)

/-- COMBINE equals offering the request and running the transitions one by one: `7 + 3·b` of them for
`length >s 0`, with `b` the bit length, or two on the shortcut (R127, R152; DESIGN CHOICE, Log 11). -/
def Obligations.CombineEqualsItsTransitions : Prop :=
  ∀ (s : State) (crc1 crc2 : Word) (length : Len), s.Ready → s.reqs = [] → s.Responsive → s.agenda = [] →
    exec (.combine crc1 crc2 length) s =
      Sys2Proof.core.run (transitionCount length) { s with reqs := [⟨crc1, crc2, length⟩] }

/-- An operation that starts at the request port ends after exactly its count of transitions, not before, with its own
response (R127, R152, R160). That other requests may wait behind it, in a list, is the model's DESIGN CHOICE (Log 9). -/
def Obligations.OperationEndsExactly : Prop :=
  ∀ (s : State) (r : Request) (rest : List Request), s.Ready → s.reqs = r :: rest → s.Responsive → s.agenda = [] →
    (∃ t, Sys2Proof.core.run (transitionCount r.length) s = .next t ∧ t.phase = .idle ∧ t.reqs = rest ∧
      t.responses = s.responses ++ [combineValue (tableRead s.table) r.crc1 r.crc2 r.length]) ∧
    (∀ n, 0 < n → n < transitionCount r.length →
      ∃ t, Sys2Proof.core.run n s = .next t ∧ t.busy = true ∧ t.responses = s.responses)

/-- The shortcut: with `length ≤s 0` two transitions give `crc1`, whatever `crc2` and whatever the table and its agent
do; no table entry is read, no SQUARE or APPLY runs (R151). The flag `tblDirty`, cleared at ACCEPT, is the model's own,
DEDUCED (Log 6); the requests behind it are those of Log 9 (DESIGN CHOICE). -/
def Obligations.ShortcutReturnsCrc1 : Prop :=
  ∀ (s : State) (r : Request) (rest : List Request), s.Ready → s.reqs = r :: rest → s.rspReady = true →
    s.agenda = [] → r.length.toInt ≤ 0 →
    Sys2Proof.core.run 2 s = .next
      { s with
        reqs := rest, acc := r.crc1, crc2R := r.crc2, lenR := r.length, k := 0, sel := false, tblDirty := false,
        res := r.crc1, phase := .idle, responses := s.responses ++ [r.crc1] }

/-- One iteration keeps the loop invariant: `ODD` is `O^(2^k)`, LEN_R is `n >> k`, and ACC is
`O^(2·(n mod 2^k))(c)` (R128). -/
def Obligations.LoopInvariantKept : Prop :=
  ∀ (s : State) (o : BitMatrix) (c : Word) (n : Len) (k : Nat),
    s.phase = .square → s.rst = false → s.agenda = [] →
    (∀ v, gf2Mult s.odd v = matrixPower o (2 ^ k) v) → s.lenR = n >>> k →
    s.acc = matrixPower o (2 * (n.toNat % 2 ^ k)) c →
    ∃ t, Sys2Proof.core.run 3 s = .next t ∧ (∀ v, gf2Mult t.odd v = matrixPower o (2 ^ (k + 1)) v) ∧
      t.lenR = n >>> (k + 1) ∧ t.acc = matrixPower o (2 * (n.toNat % 2 ^ (k + 1))) c ∧
      t.phase = (if n >>> (k + 1) = 0 then .finish else .square)

/-- The loop ends: from SQUARE with the invariant, after one iteration for each bit of LEN_R and without any input, the
engine is in FINISH with LEN_R = 0 (R127, R129). -/
def Obligations.LoopTerminates : Prop :=
  ∀ s : State, s.Inv → s.phase = .square → s.rst = false → s.agenda = [] →
    ∃ t, Sys2Proof.core.run (3 * iterations s.lenR) s = .next t ∧ t.phase = .finish ∧ t.lenR = 0 ∧
      t.responses = s.responses ∧ t.reads = s.reads ∧ t.crc2R = s.crc2R

/-- When the engine enters FINISH, ACC is `O^(2·n)(c)`, with `O` the initial odd matrix of the words read, `c` the
`crc1` and `n` the `length` accepted; the reference function of the engine gives the same (R126, R130). -/
def Obligations.EngineClosedForm : Prop :=
  ∀ (s : State) (r : Request) (rest : List Request), s.Ready → s.reqs = r :: rest → s.TablePrompt → s.agenda = [] →
    0 < r.length.toInt →
    ∃ t, Sys2Proof.core.run (5 + 3 * iterations r.length) s = .next t ∧ t.phase = .finish ∧ t.crc2R = r.crc2 ∧
      t.acc = matrixPower (initialOdd (tableRead s.table 16) (tableRead s.table 32) (tableRead s.table 64)
        (tableRead s.table 128)) (2 * r.length.toNat) r.crc1 ∧
      t.acc = engine (tableRead s.table 16) (tableRead s.table 32) (tableRead s.table 64) (tableRead s.table 128)
        r.crc1 r.length

/-- Independence: the response depends only on the request and the four entries; the registers' earlier contents, the
other 252 entries and the earlier responses have no effect (R37, R52, R159). It is stated over COMBINE as one step, a
DESIGN CHOICE (Log 11). -/
def Obligations.ResultIndependence : Prop :=
  ∀ (s s' : State) (crc1 crc2 : Word) (length : Len), s.Ready → s'.Ready → s.reqs = [] → s'.reqs = [] →
    s.Responsive → s'.Responsive →
    (∀ i, i = 16 ∨ i = 32 ∨ i = 64 ∨ i = 128 → tableRead s.table i = tableRead s'.table i) →
    ∃ t t', exec (.combine crc1 crc2 length) s = .next t ∧ exec (.combine crc1 crc2 length) s' = .next t' ∧
      t.res = t'.res

/-! ### What the result means -/

/-- The initial odd matrix of a reflected table is the zero-nibble operator, and its square the zero-byte operator
(R122). It rests on the CRC definitions, which are PRESUMED (Log 18). -/
def Obligations.InitialOddIsZeroNibble : Prop :=
  ∀ (poly v : Word),
    gf2Mult (initialOdd (reflectedTable poly 16) (reflectedTable poly 32) (reflectedTable poly 64)
      (reflectedTable poly 128)) v = crcShifts poly 4 v ∧
    gf2Mult (gf2Square (initialOdd (reflectedTable poly 16) (reflectedTable poly 32) (reflectedTable poly 64)
      (reflectedTable poly 128))) v = crcShifts poly 8 v

/-- Correctness under the caller's contract: with the reflected table of a polynomial, COMBINE of `crc(A)`, `crc(B)` and
the length of B answers `crc(A ++ B)` (R156). It rests on the CRC definitions, which are PRESUMED (Log 18), and is stated
over COMBINE as one step, a DESIGN CHOICE (Log 11). -/
def Obligations.CombineIsCrcOfConcatenation : Prop :=
  ∀ (s : State) (poly : Word) (a b : List Byte), s.Ready → s.reqs = [] → s.Responsive →
    (∀ i, i = 16 ∨ i = 32 ∨ i = 64 ∨ i = 128 → tableRead s.table i = reflectedTable poly i) → b.length < 2 ^ 63 →
    ∃ t, exec (.combine (crc32 poly a) (crc32 poly b) (lengthOf b)) s = .next t ∧
      t.responses = s.responses ++ [crc32 poly (a ++ b)]

/-- Associativity with chunking, for any four table words: combining (A, B) and then C equals combining A with
(B, C) (R157). That an empty B has the CRC 0 is PRESUMED (G2, Log 18). -/
def Obligations.CombineAssociative : Prop :=
  ∀ (tab : TableIndex → Word) (a b c : Word) (lenB lenC : Len), 0 ≤ lenB.toInt → 0 ≤ lenC.toInt →
    lenB.toInt + lenC.toInt < 2 ^ 63 → (lenB = 0 → b = 0) →
    combineValue tab (combineValue tab a b lenB) c lenC =
      combineValue tab a (combineValue tab b c lenC) (lenB + lenC)

/-- Any `length ≤s 0` gives `crc1`, and for `length >s 0` the checksum 0 combined with `crc2` gives `crc2` (R151, R153,
R157). That 0 is the CRC of the empty first stream is PRESUMED (G2, Log 18). -/
def Obligations.EmptyStreams : Prop :=
  ∀ (tab : TableIndex → Word) (crc1 crc2 : Word) (length : Len),
    (length.toInt ≤ 0 → combineValue tab crc1 crc2 length = crc1) ∧
    (0 < length.toInt → combineValue tab 0 crc2 length = crc2)

/-- The formula of R252, for a realisation without overlap, bounds the transitions: with every latency at least one cycle it
is at least the number of transitions before RELEASE. A realisation that overlaps transitions may take fewer cycles
(R241, R252). That the model has the formula and no clock is a DESIGN CHOICE (Log 16). -/
def Obligations.CyclesBoundTransitions : Prop :=
  ∀ (l : Latency) (n : Len), l.positive = true → transitionCount n ≤ operationCycles l n + 1
end

