-- ==== Sys2Proof/Laws/Memory.lean ====
section
/-! SUPPORT. What the table's storage does: read after write, and the canonical form (memRead, memWrite, tableRead,
tableWrite). -/

namespace Sys2Proof.Machine

theorem memWfFrom_cons (lo a : Nat) (v : Byte) (m : Memory) :
    memWfFrom lo ((a, v) :: m) = true ↔
      lo ≤ a ∧ a < 1024 ∧ v ≠ unlistedByte ∧ memWfFrom (a + 1) m = true := by
  simp [memWfFrom, and_assoc]

/-- Below the first address of a canonical list, every byte is unlisted. -/
theorem memRead_below {m : Memory} {lo a : Nat} (h : memWfFrom lo m = true) (ha : a < lo) :
    memRead m a = unlistedByte := by
  induction m generalizing lo with
  | nil => rfl
  | cons c m ih =>
    obtain ⟨b, v⟩ := c
    obtain ⟨hb, -, -, hm⟩ := (memWfFrom_cons ..).1 h
    rw [memRead, if_neg (by omega)]
    exact ih hm (by omega)

theorem memWfFrom_mono {m : Memory} {lo lo' : Nat} (h : memWfFrom lo m = true) (hl : lo' ≤ lo) :
    memWfFrom lo' m = true := by
  cases m with
  | nil => rfl
  | cons c m =>
    obtain ⟨b, v⟩ := c
    rw [memWfFrom_cons] at h ⊢
    exact ⟨by omega, h.2⟩

/-- A write keeps the canonical form. -/
theorem memWfFrom_memWrite {m : Memory} {lo a : Nat} (v : Byte) (h : memWfFrom lo m = true) (ha : lo ≤ a)
    (ha' : a < 1024) : memWfFrom lo (memWrite m a v) = true := by
  induction m generalizing lo with
  | nil =>
    unfold memWrite
    split
    · rfl
    · rw [memWfFrom_cons]; exact ⟨ha, ha', ‹_›, rfl⟩
  | cons c m ih =>
    obtain ⟨b, w⟩ := c
    obtain ⟨hb, hb', hw, hm⟩ := (memWfFrom_cons ..).1 h
    unfold memWrite
    split
    · split
      · exact h
      · rw [memWfFrom_cons]
        exact ⟨ha, ha', ‹_›, (memWfFrom_cons ..).2 ⟨by omega, hb', hw, hm⟩⟩
    · split
      · split
        · exact memWfFrom_mono hm (by omega)
        · rw [memWfFrom_cons]; subst_vars; exact ⟨ha, ha', ‹_›, hm⟩
      · rw [memWfFrom_cons]
        exact ⟨hb, hb', hw, ih hm (by omega)⟩

/-- A read after a write to the same address gives the byte written. -/
theorem memRead_memWrite_same {m : Memory} {lo : Nat} (a : Nat) (v : Byte) (h : memWfFrom lo m = true) :
    memRead (memWrite m a v) a = v := by
  induction m generalizing lo with
  | nil => unfold memWrite; split <;> simp_all [memRead]
  | cons c m ih =>
    obtain ⟨b, w⟩ := c
    obtain ⟨-, -, -, hm⟩ := (memWfFrom_cons ..).1 h
    unfold memWrite
    split
    · split
      · rw [memRead, if_neg (by omega), memRead_below hm (by omega)]; exact Eq.symm ‹_›
      · simp [memRead]
    · split
      · split
        · rw [memRead_below hm (by omega)]; exact Eq.symm ‹_›
        · simp [memRead]
      · rw [memRead, if_neg ‹_›]; exact ih hm

/-- A write leaves every other address alone. -/
theorem memRead_memWrite_other (m : Memory) {a c : Nat} (v : Byte) (h : c ≠ a) :
    memRead (memWrite m a v) c = memRead m c := by
  induction m with
  | nil => unfold memWrite; split <;> simp [memRead, h]
  | cons d m ih =>
    obtain ⟨b, w⟩ := d
    unfold memWrite
    split
    · split <;> simp [memRead, h]
    · split
      · subst_vars; split <;> simp [memRead, h]
      · simp [memRead, ih]

theorem laneAddr_lt (i : TableIndex) {lane : Nat} (h : lane < 4) : laneAddr i lane < 1024 := by
  have := i.isLt
  unfold laneAddr
  omega

/-- Writing an entry keeps the canonical form. -/
theorem tableWrite_wf {m : Memory} (i : TableIndex) (v : Word) (h : m.wf = true) : (tableWrite m i v).wf = true := by
  unfold tableWrite Memory.wf
  refine memWfFrom_memWrite _ (memWfFrom_memWrite _ (memWfFrom_memWrite _ (memWfFrom_memWrite _ h ?_ ?_) ?_ ?_) ?_ ?_) ?_ ?_
  all_goals first | exact Nat.zero_le _ | exact laneAddr_lt i (by decide)

theorem laneAddr_ne {i j : TableIndex} (h : i ≠ j) {a b : Nat} (ha : a < 4) (hb : b < 4) :
    laneAddr i a ≠ laneAddr j b := by
  intro e
  unfold laneAddr at e
  exact h (BitVec.eq_of_toNat_eq (by omega))

/-- The entry written reads as the word written (R54, R85). -/
theorem tableRead_tableWrite_same {m : Memory} (i : TableIndex) (v : Word) (h : m.wf = true) :
    tableRead (tableWrite m i v) i = v := by
  have w : ∀ {m : Memory} (lane : Nat) (b : Byte), lane < 4 → m.wf = true →
      (memWrite m (laneAddr i lane) b).wf = true :=
    fun lane b hl hm => memWfFrom_memWrite b hm (Nat.zero_le _) (laneAddr_lt i hl)
  have r : ∀ {m : Memory} (lane : Nat) (b : Byte), m.wf = true → memRead (memWrite m (laneAddr i lane) b)
      (laneAddr i lane) = b := fun lane b hm => memRead_memWrite_same _ b hm
  have o : ∀ (m : Memory) {a lane : Nat} (b : Byte), a ≠ lane →
      memRead (memWrite m (laneAddr i lane) b) (laneAddr i a) = memRead m (laneAddr i a) := by
    intro m a lane b hne
    exact memRead_memWrite_other _ _ (by unfold laneAddr; omega)
  have h0 := w 0 (v.extractLsb' 0 8) (by decide) h
  have h1 := w 1 (v.extractLsb' 8 8) (by decide) h0
  have h2 := w 2 (v.extractLsb' 16 8) (by decide) h1
  unfold tableRead tableWrite
  rw [r 3 _ h2, o _ _ (by decide : 2 ≠ 3), r 2 _ h1, o _ _ (by decide : 1 ≠ 3), o _ _ (by decide : 1 ≠ 2), r 1 _ h0,
    o _ _ (by decide : 0 ≠ 3), o _ _ (by decide : 0 ≠ 2), o _ _ (by decide : 0 ≠ 1), r 0 _ h]
  apply BitVec.eq_of_getLsbD_eq
  intro k hk
  simp only [BitVec.getLsbD_append, BitVec.getLsbD_extractLsb']
  split_ifs with a b c
  · simp [a]
  · simp [b, show 8 + (k - 8) = k by omega]
  · simp [c, show 16 + (k - 8 - 8) = k by omega]
  · simp [show k - 8 - 8 - 8 < 8 by omega, show 24 + (k - 8 - 8 - 8) = k by omega]

/-- Every other entry reads as before. -/
theorem tableRead_tableWrite_other (m : Memory) {i j : TableIndex} (v : Word) (h : j ≠ i) :
    tableRead (tableWrite m i v) j = tableRead m j := by
  have o : ∀ (m : Memory) {a b : Nat} (x : Byte), a < 4 → b < 4 →
      memRead (memWrite m (laneAddr i b) x) (laneAddr j a) = memRead m (laneAddr j a) :=
    fun m _ _ x ha hb => memRead_memWrite_other _ x (laneAddr_ne h ha hb)
  unfold tableRead tableWrite
  simp only [o _ _ (by decide : (3 : Nat) < 4), o _ _ (by decide : (2 : Nat) < 4), o _ _ (by decide : (1 : Nat) < 4),
    o _ _ (by decide : (0 : Nat) < 4), Nat.lt_add_one, Nat.reduceLT, Nat.ofNat_pos]

end Sys2Proof.Machine
end

