-- ==== Sys2Proof/Laws/State.lean ====
section
/-! SUPPORT. One lemma per field per named update of State. -/

namespace Sys2Proof.Machine

@[simp] theorem State.issueRead_tblPend (s : State) : s.issueRead.tblPend = true := rfl
@[simp] theorem State.issueRead_reads (s : State) : s.issueRead.reads = s.reads ++ [seedIndex s.k] := rfl
@[simp] theorem State.offer_reqs (s : State) (r : Request) : (s.offer r).reqs = s.reqs ++ [r] := rfl

/-- `ODD` and `EVEN` are always the two different buffers (R27, R240). -/
@[simp] theorem State.odd_setEven (s : State) (m : BitMatrix) : (s.setEven m).odd = s.odd := by
  cases h : s.sel <;> simp [State.odd, State.setEven, h]
@[simp] theorem State.even_setEven (s : State) (m : BitMatrix) : (s.setEven m).even = m := by
  cases h : s.sel <;> simp [State.even, State.setEven, h]
@[simp] theorem State.odd_setOdd (s : State) (m : BitMatrix) : (s.setOdd m).odd = m := by
  cases h : s.sel <;> simp [State.odd, State.setOdd, h]
@[simp] theorem State.even_setOdd (s : State) (m : BitMatrix) : (s.setOdd m).even = s.even := by
  cases h : s.sel <;> simp [State.even, State.setOdd, h]

@[simp] theorem State.setOdd_phase (s : State) (m : BitMatrix) : (s.setOdd m).phase = s.phase := rfl
@[simp] theorem State.setOdd_k (s : State) (m : BitMatrix) : (s.setOdd m).k = s.k := rfl
@[simp] theorem State.setOdd_tblPend (s : State) (m : BitMatrix) : (s.setOdd m).tblPend = s.tblPend := rfl
@[simp] theorem State.setOdd_sel (s : State) (m : BitMatrix) : (s.setOdd m).sel = s.sel := rfl
@[simp] theorem State.setOdd_acc (s : State) (m : BitMatrix) : (s.setOdd m).acc = s.acc := rfl
@[simp] theorem State.setOdd_crc2R (s : State) (m : BitMatrix) : (s.setOdd m).crc2R = s.crc2R := rfl
@[simp] theorem State.setOdd_lenR (s : State) (m : BitMatrix) : (s.setOdd m).lenR = s.lenR := rfl
@[simp] theorem State.setOdd_res (s : State) (m : BitMatrix) : (s.setOdd m).res = s.res := rfl
@[simp] theorem State.setOdd_rst (s : State) (m : BitMatrix) : (s.setOdd m).rst = s.rst := rfl
@[simp] theorem State.setOdd_reqs (s : State) (m : BitMatrix) : (s.setOdd m).reqs = s.reqs := rfl
@[simp] theorem State.setOdd_rspReady (s : State) (m : BitMatrix) : (s.setOdd m).rspReady = s.rspReady := rfl
@[simp] theorem State.setOdd_tblReqReady (s : State) (m : BitMatrix) : (s.setOdd m).tblReqReady = s.tblReqReady := rfl
@[simp] theorem State.setOdd_tblAnswers (s : State) (m : BitMatrix) : (s.setOdd m).tblAnswers = s.tblAnswers := rfl
@[simp] theorem State.setOdd_table (s : State) (m : BitMatrix) : (s.setOdd m).table = s.table := rfl
@[simp] theorem State.setOdd_tblDirty (s : State) (m : BitMatrix) : (s.setOdd m).tblDirty = s.tblDirty := rfl
@[simp] theorem State.setOdd_agenda (s : State) (m : BitMatrix) : (s.setOdd m).agenda = s.agenda := rfl
@[simp] theorem State.setOdd_draws (s : State) (m : BitMatrix) : (s.setOdd m).draws = s.draws := rfl
@[simp] theorem State.setOdd_responses (s : State) (m : BitMatrix) : (s.setOdd m).responses = s.responses := rfl
@[simp] theorem State.setOdd_reads (s : State) (m : BitMatrix) : (s.setOdd m).reads = s.reads := rfl

@[simp] theorem State.setEven_phase (s : State) (m : BitMatrix) : (s.setEven m).phase = s.phase := rfl
@[simp] theorem State.setEven_k (s : State) (m : BitMatrix) : (s.setEven m).k = s.k := rfl
@[simp] theorem State.setEven_tblPend (s : State) (m : BitMatrix) : (s.setEven m).tblPend = s.tblPend := rfl
@[simp] theorem State.setEven_sel (s : State) (m : BitMatrix) : (s.setEven m).sel = s.sel := rfl
@[simp] theorem State.setEven_acc (s : State) (m : BitMatrix) : (s.setEven m).acc = s.acc := rfl
@[simp] theorem State.setEven_crc2R (s : State) (m : BitMatrix) : (s.setEven m).crc2R = s.crc2R := rfl
@[simp] theorem State.setEven_lenR (s : State) (m : BitMatrix) : (s.setEven m).lenR = s.lenR := rfl
@[simp] theorem State.setEven_res (s : State) (m : BitMatrix) : (s.setEven m).res = s.res := rfl
@[simp] theorem State.setEven_rst (s : State) (m : BitMatrix) : (s.setEven m).rst = s.rst := rfl
@[simp] theorem State.setEven_reqs (s : State) (m : BitMatrix) : (s.setEven m).reqs = s.reqs := rfl
@[simp] theorem State.setEven_rspReady (s : State) (m : BitMatrix) : (s.setEven m).rspReady = s.rspReady := rfl
@[simp] theorem State.setEven_tblReqReady (s : State) (m : BitMatrix) : (s.setEven m).tblReqReady = s.tblReqReady := rfl
@[simp] theorem State.setEven_tblAnswers (s : State) (m : BitMatrix) : (s.setEven m).tblAnswers = s.tblAnswers := rfl
@[simp] theorem State.setEven_table (s : State) (m : BitMatrix) : (s.setEven m).table = s.table := rfl
@[simp] theorem State.setEven_tblDirty (s : State) (m : BitMatrix) : (s.setEven m).tblDirty = s.tblDirty := rfl
@[simp] theorem State.setEven_agenda (s : State) (m : BitMatrix) : (s.setEven m).agenda = s.agenda := rfl
@[simp] theorem State.setEven_draws (s : State) (m : BitMatrix) : (s.setEven m).draws = s.draws := rfl
@[simp] theorem State.setEven_responses (s : State) (m : BitMatrix) : (s.setEven m).responses = s.responses := rfl
@[simp] theorem State.setEven_reads (s : State) (m : BitMatrix) : (s.setEven m).reads = s.reads := rfl

@[simp] theorem State.issueRead_phase (s : State) : s.issueRead.phase = s.phase := rfl
@[simp] theorem State.issueRead_k (s : State) : s.issueRead.k = s.k := rfl
@[simp] theorem State.issueRead_sel (s : State) : s.issueRead.sel = s.sel := rfl
@[simp] theorem State.issueRead_acc (s : State) : s.issueRead.acc = s.acc := rfl
@[simp] theorem State.issueRead_crc2R (s : State) : s.issueRead.crc2R = s.crc2R := rfl
@[simp] theorem State.issueRead_lenR (s : State) : s.issueRead.lenR = s.lenR := rfl
@[simp] theorem State.issueRead_res (s : State) : s.issueRead.res = s.res := rfl
@[simp] theorem State.issueRead_matA (s : State) : s.issueRead.matA = s.matA := rfl
@[simp] theorem State.issueRead_matB (s : State) : s.issueRead.matB = s.matB := rfl
@[simp] theorem State.issueRead_rst (s : State) : s.issueRead.rst = s.rst := rfl
@[simp] theorem State.issueRead_reqs (s : State) : s.issueRead.reqs = s.reqs := rfl
@[simp] theorem State.issueRead_rspReady (s : State) : s.issueRead.rspReady = s.rspReady := rfl
@[simp] theorem State.issueRead_tblReqReady (s : State) : s.issueRead.tblReqReady = s.tblReqReady := rfl
@[simp] theorem State.issueRead_tblAnswers (s : State) : s.issueRead.tblAnswers = s.tblAnswers := rfl
@[simp] theorem State.issueRead_table (s : State) : s.issueRead.table = s.table := rfl
@[simp] theorem State.issueRead_tblDirty (s : State) : s.issueRead.tblDirty = s.tblDirty := rfl
@[simp] theorem State.issueRead_agenda (s : State) : s.issueRead.agenda = s.agenda := rfl
@[simp] theorem State.issueRead_draws (s : State) : s.issueRead.draws = s.draws := rfl
@[simp] theorem State.issueRead_responses (s : State) : s.issueRead.responses = s.responses := rfl

@[simp] theorem State.offer_phase (s : State) (r : Request) : (s.offer r).phase = s.phase := rfl
@[simp] theorem State.offer_k (s : State) (r : Request) : (s.offer r).k = s.k := rfl
@[simp] theorem State.offer_tblPend (s : State) (r : Request) : (s.offer r).tblPend = s.tblPend := rfl
@[simp] theorem State.offer_sel (s : State) (r : Request) : (s.offer r).sel = s.sel := rfl
@[simp] theorem State.offer_acc (s : State) (r : Request) : (s.offer r).acc = s.acc := rfl
@[simp] theorem State.offer_crc2R (s : State) (r : Request) : (s.offer r).crc2R = s.crc2R := rfl
@[simp] theorem State.offer_lenR (s : State) (r : Request) : (s.offer r).lenR = s.lenR := rfl
@[simp] theorem State.offer_res (s : State) (r : Request) : (s.offer r).res = s.res := rfl
@[simp] theorem State.offer_matA (s : State) (r : Request) : (s.offer r).matA = s.matA := rfl
@[simp] theorem State.offer_matB (s : State) (r : Request) : (s.offer r).matB = s.matB := rfl
@[simp] theorem State.offer_rst (s : State) (r : Request) : (s.offer r).rst = s.rst := rfl
@[simp] theorem State.offer_rspReady (s : State) (r : Request) : (s.offer r).rspReady = s.rspReady := rfl
@[simp] theorem State.offer_tblReqReady (s : State) (r : Request) : (s.offer r).tblReqReady = s.tblReqReady := rfl
@[simp] theorem State.offer_tblAnswers (s : State) (r : Request) : (s.offer r).tblAnswers = s.tblAnswers := rfl
@[simp] theorem State.offer_table (s : State) (r : Request) : (s.offer r).table = s.table := rfl
@[simp] theorem State.offer_tblDirty (s : State) (r : Request) : (s.offer r).tblDirty = s.tblDirty := rfl
@[simp] theorem State.offer_agenda (s : State) (r : Request) : (s.offer r).agenda = s.agenda := rfl
@[simp] theorem State.offer_draws (s : State) (r : Request) : (s.offer r).draws = s.draws := rfl
@[simp] theorem State.offer_responses (s : State) (r : Request) : (s.offer r).responses = s.responses := rfl
@[simp] theorem State.offer_reads (s : State) (r : Request) : (s.offer r).reads = s.reads := rfl

@[simp] theorem doReset_rst (s : State) : (doReset s).rst = s.rst := rfl
@[simp] theorem doReset_reqs (s : State) : (doReset s).reqs = s.reqs := rfl
@[simp] theorem doReset_rspReady (s : State) : (doReset s).rspReady = s.rspReady := rfl
@[simp] theorem doReset_tblReqReady (s : State) : (doReset s).tblReqReady = s.tblReqReady := rfl
@[simp] theorem doReset_tblAnswers (s : State) : (doReset s).tblAnswers = s.tblAnswers := rfl
@[simp] theorem doReset_table (s : State) : (doReset s).table = s.table := rfl
@[simp] theorem doReset_tblDirty (s : State) : (doReset s).tblDirty = s.tblDirty := rfl
@[simp] theorem doReset_agenda (s : State) : (doReset s).agenda = s.agenda := rfl
@[simp] theorem doReset_responses (s : State) : (doReset s).responses = s.responses := rfl
@[simp] theorem doReset_reads (s : State) : (doReset s).reads = s.reads := rfl
@[simp] theorem doReset_phase (s : State) : (doReset s).phase = .idle := rfl
@[simp] theorem doReset_tblPend (s : State) : (doReset s).tblPend = false := rfl

@[simp] theorem State.drive_phase (s : State) (m : Move) : (s.drive m).phase = s.phase := by cases m <;> rfl
@[simp] theorem State.drive_k (s : State) (m : Move) : (s.drive m).k = s.k := by cases m <;> rfl
@[simp] theorem State.drive_tblPend (s : State) (m : Move) : (s.drive m).tblPend = s.tblPend := by cases m <;> rfl
@[simp] theorem State.drive_sel (s : State) (m : Move) : (s.drive m).sel = s.sel := by cases m <;> rfl
@[simp] theorem State.drive_acc (s : State) (m : Move) : (s.drive m).acc = s.acc := by cases m <;> rfl
@[simp] theorem State.drive_crc2R (s : State) (m : Move) : (s.drive m).crc2R = s.crc2R := by cases m <;> rfl
@[simp] theorem State.drive_lenR (s : State) (m : Move) : (s.drive m).lenR = s.lenR := by cases m <;> rfl
@[simp] theorem State.drive_res (s : State) (m : Move) : (s.drive m).res = s.res := by cases m <;> rfl
@[simp] theorem State.drive_matA (s : State) (m : Move) : (s.drive m).matA = s.matA := by cases m <;> rfl
@[simp] theorem State.drive_matB (s : State) (m : Move) : (s.drive m).matB = s.matB := by cases m <;> rfl
@[simp] theorem State.drive_reqs (s : State) (m : Move) : (s.drive m).reqs = s.reqs := by cases m <;> rfl
@[simp] theorem State.drive_table (s : State) (m : Move) : (s.drive m).table = s.table := by cases m <;> rfl
@[simp] theorem State.drive_tblDirty (s : State) (m : Move) : (s.drive m).tblDirty = s.tblDirty := by cases m <;> rfl
@[simp] theorem State.drive_agenda (s : State) (m : Move) : (s.drive m).agenda = s.agenda := by cases m <;> rfl
@[simp] theorem State.drive_draws (s : State) (m : Move) : (s.drive m).draws = s.draws := by cases m <;> rfl
@[simp] theorem State.drive_responses (s : State) (m : Move) : (s.drive m).responses = s.responses := by cases m <;> rfl
@[simp] theorem State.drive_reads (s : State) (m : Move) : (s.drive m).reads = s.reads := by cases m <;> rfl

end Sys2Proof.Machine
end

