-- ==== Sys2Proof/Laws/Turn.lean ====
section
/-! SUPPORT. One lemma per shared operation that says what it can do, for the provers to cite. -/

namespace Sys2Proof.Machine

/-- The data half of SEED before the last seed row (R120). -/
theorem takeWord_of_lt {s : State} (d : Word) (fresh : Bool) (h : s.k.toNat < 3) :
    s.takeWord d fresh =
      { s.setOdd (s.odd.setRow (seedRow s.k) d) with
        tblPend := false
        draws := if fresh then s.draws + 1 else s.draws
        k := s.k + 1 } := by
  simp [State.takeWord, h, State.setOdd, State.odd]

/-- The data half of SEED at the last seed row (R120, R121). -/
theorem takeWord_of_last {s : State} (d : Word) (fresh : Bool) (h : ¬ s.k.toNat < 3) :
    s.takeWord d fresh =
      { s.setOdd (loadFixedRows (s.odd.setRow (seedRow s.k) d)) with
        tblPend := false
        draws := if fresh then s.draws + 1 else s.draws
        phase := .square } := by
  simp [State.takeWord, h, State.setOdd, State.odd]

/-- What SEED can do: leave the request offered, leave the read outstanding, or take the word (R75, R76, R120). -/
theorem seedWith_cases (d : Word) (fresh : Bool) (s : State) :
    (s.tblPend = false ∧ s.tblReqReady = false ∧ seedWith d fresh s = s) ∨
    (s.tblPend = false ∧ s.tblReqReady = true ∧ s.tblAnswers = false ∧ seedWith d fresh s = s.issueRead) ∨
    (s.tblPend = true ∧ s.tblAnswers = false ∧ seedWith d fresh s = s) ∨
    (s.tblPend = false ∧ s.tblReqReady = true ∧ s.tblAnswers = true ∧
      seedWith d fresh s = s.issueRead.takeWord d fresh) ∨
    (s.tblPend = true ∧ s.tblAnswers = true ∧ seedWith d fresh s = s.takeWord d fresh) := by
  cases hp : s.tblPend <;> cases hr : s.tblReqReady <;> cases ha : s.tblAnswers <;>
    simp [seedWith, hp, hr, ha]

/-- The fields a word read never writes. -/
@[simp] theorem takeWord_frame (d : Word) (fresh : Bool) (s : State) :
    (s.takeWord d fresh).sel = s.sel ∧ (s.takeWord d fresh).acc = s.acc ∧ (s.takeWord d fresh).crc2R = s.crc2R ∧
      (s.takeWord d fresh).lenR = s.lenR ∧ (s.takeWord d fresh).res = s.res ∧ (s.takeWord d fresh).rst = s.rst ∧
      (s.takeWord d fresh).reqs = s.reqs ∧ (s.takeWord d fresh).rspReady = s.rspReady ∧
      (s.takeWord d fresh).tblReqReady = s.tblReqReady ∧ (s.takeWord d fresh).tblAnswers = s.tblAnswers ∧
      (s.takeWord d fresh).table = s.table ∧ (s.takeWord d fresh).tblDirty = s.tblDirty ∧
      (s.takeWord d fresh).agenda = s.agenda ∧ (s.takeWord d fresh).responses = s.responses ∧
      (s.takeWord d fresh).reads = s.reads ∧ (s.takeWord d fresh).tblPend = false := by
  by_cases h : s.k.toNat < 3
  · rw [takeWord_of_lt d fresh h]; simp
  · rw [takeWord_of_last d fresh h]; simp

/-- The fields SEED never writes. -/
@[simp] theorem seedWith_frame (d : Word) (fresh : Bool) (s : State) :
    (seedWith d fresh s).sel = s.sel ∧ (seedWith d fresh s).acc = s.acc ∧ (seedWith d fresh s).crc2R = s.crc2R ∧
      (seedWith d fresh s).lenR = s.lenR ∧ (seedWith d fresh s).res = s.res ∧ (seedWith d fresh s).rst = s.rst ∧
      (seedWith d fresh s).reqs = s.reqs ∧ (seedWith d fresh s).rspReady = s.rspReady ∧
      (seedWith d fresh s).tblReqReady = s.tblReqReady ∧ (seedWith d fresh s).tblAnswers = s.tblAnswers ∧
      (seedWith d fresh s).table = s.table ∧ (seedWith d fresh s).tblDirty = s.tblDirty ∧
      (seedWith d fresh s).agenda = s.agenda ∧ (seedWith d fresh s).responses = s.responses := by
  rcases seedWith_cases d fresh s with ⟨-, -, e⟩ | ⟨-, -, -, e⟩ | ⟨-, -, e⟩ | ⟨-, -, -, e⟩ | ⟨-, -, e⟩ <;> rw [e] <;> simp

/-- What ACCEPT can do: wait, take the shortcut, or start the engine (R150, R151). -/
theorem doAccept_cases (s : State) :
    (s.reqs = [] ∧ doAccept s = s) ∨
    (∃ r rest, s.reqs = r :: rest ∧ lenNonPositive r.length = true ∧ (doAccept s).phase = .respond ∧
      (doAccept s).res = r.crc1 ∧ (doAccept s).lenR = r.length) ∨
    (∃ r rest, s.reqs = r :: rest ∧ lenNonPositive r.length = false ∧ (doAccept s).phase = .seed ∧
      (doAccept s).res = s.res ∧ (doAccept s).lenR = r.length) := by
  rcases hr : s.reqs with _ | ⟨r, rest⟩
  · simp [doAccept, hr]
  · cases hl : lenNonPositive r.length <;> simp [doAccept, hr, hl]

/-- What RELEASE can do: wait, or hand RES over (R154, R155). -/
theorem doRelease_cases (s : State) :
    (s.rspReady = false ∧ doRelease s = s) ∨
    (s.rspReady = true ∧ doRelease s = { s with phase := .idle, responses := s.responses ++ [s.res] }) := by
  cases h : s.rspReady <;> simp [doRelease, h]

/-- What a block transition can be: the transition its phase names. -/
theorem transitionWith_cases (seed : State → State) (s : State) :
    (s.phase = .idle ∧ transitionWith seed s = doAccept s) ∨ (s.phase = .seed ∧ transitionWith seed s = seed s) ∨
    (s.phase = .square ∧ transitionWith seed s = doSquare s) ∨
    (s.phase = .apply ∧ transitionWith seed s = doApply s) ∨
    (s.phase = .advance ∧ transitionWith seed s = doAdvance s) ∨
    (s.phase = .finish ∧ transitionWith seed s = doFinish s) ∨
    (s.phase = .respond ∧ transitionWith seed s = doRelease s) := by
  cases h : s.phase <;> simp [transitionWith, h]

/-- The block's turn runs the transition PHASE selects, or the reset edge: it never stops. -/
theorem blockTurn_eq (s : State) : blockTurn s = .next (if s.rst then doReset s else blockTransition s) := by
  cases hr : s.rst <;> simp only [blockTurn, hr, if_true, Bool.false_eq_true, if_false]
  cases h : s.phase <;> simp [blockTransition, transitionWith, h] <;> rfl

/-- What no transition writes: the TABLE (R51), the wires the agents drive but the requests, and the agenda. -/
@[simp] theorem transitionWith_frame (d : Word) (fresh : Bool) (s : State) :
    (transitionWith (seedWith d fresh) s).table = s.table ∧ (transitionWith (seedWith d fresh) s).rst = s.rst ∧
      (transitionWith (seedWith d fresh) s).rspReady = s.rspReady ∧
      (transitionWith (seedWith d fresh) s).tblReqReady = s.tblReqReady ∧
      (transitionWith (seedWith d fresh) s).tblAnswers = s.tblAnswers ∧
      (transitionWith (seedWith d fresh) s).agenda = s.agenda := by
  rcases transitionWith_cases (seedWith d fresh) s with
    ⟨-, e⟩ | ⟨-, e⟩ | ⟨-, e⟩ | ⟨-, e⟩ | ⟨-, e⟩ | ⟨-, e⟩ | ⟨-, e⟩ <;> rw [e]
  · unfold doAccept; split <;> simp
  · simp
  · simp [doSquare]
  · simp [doApply]
  · simp [doAdvance]
  · simp [doFinish]
  · rcases doRelease_cases s with ⟨-, e⟩ | ⟨-, e⟩ <;> rw [e] <;> simp

/-- Once its request is accepted, an operation's record of table changes is left alone by the block. -/
theorem transitionWith_tblDirty (d : Word) (fresh : Bool) {s : State} (h : s.phase ≠ .idle) :
    (transitionWith (seedWith d fresh) s).tblDirty = s.tblDirty := by
  rcases transitionWith_cases (seedWith d fresh) s with
    ⟨hp, e⟩ | ⟨-, e⟩ | ⟨-, e⟩ | ⟨-, e⟩ | ⟨-, e⟩ | ⟨-, e⟩ | ⟨-, e⟩
  · exact absurd hp h
  · simp [e]
  · simp [e, doSquare]
  · simp [e, doApply]
  · simp [e, doAdvance]
  · simp [e, doFinish]
  · rcases doRelease_cases s with ⟨-, e'⟩ | ⟨-, e'⟩ <;> simp [e, e']

/-- A block transition is a transition with the word the table agent answers. -/
theorem blockTransition_eq (s : State) : blockTransition s = transitionWith (seedWith s.tblRspData s.wordDrawn) s := by
  cases h : s.phase <;> simp only [blockTransition, transitionWith, h, doSeed]

/-- A property that every block transition keeps is kept by a whole operation. -/
theorem runOperation_keeps {P : State → Prop} (h : ∀ s, P s → P (blockTransition s)) (n : Nat) (s : State) (hs : P s) :
    P (runOperation n s) := by
  induction n generalizing s with
  | zero => exact hs
  | succ n ih => unfold runOperation; dsimp only; split; exacts [h s hs, ih _ (h s hs)]

end Sys2Proof.Machine
end

