-- ==== Sys2Proof/Laws/InFlight.lean ====
section
/-! SUPPORT. The course of an operation and its settledness: the words read do not bear on the course, and with no
table change to come nothing is drawn. -/

namespace Sys2Proof.Machine

/-- Two states whose operations take the same course under the same moves. -/
structure SameCourse (s t : State) : Prop where
  phase : s.phase = t.phase
  k : s.k = t.k
  tblPend : s.tblPend = t.tblPend
  lenR : s.lenR = t.lenR
  rst : s.rst = t.rst
  rspReady : s.rspReady = t.rspReady
  tblReqReady : s.tblReqReady = t.tblReqReady
  tblAnswers : s.tblAnswers = t.tblAnswers

/-- In flight, a transition keeps two states on the same course, whatever words they read. -/
theorem transitionWith_sameCourse {s t : State} (d e : Word) (f g : Bool) (hi : s.phase ≠ .idle) (h : SameCourse s t) :
    SameCourse (transitionWith (seedWith d f) s) (transitionWith (seedWith e g) t) := by
  obtain ⟨h1, h2, h3, h4, h5, h6, h7, h8⟩ := h
  have takes : ∀ {u v : State}, SameCourse u v → SameCourse (u.takeWord d f) (v.takeWord e g) := by
    intro u v ⟨a1, a2, a3, a4, a5, a6, a7, a8⟩
    by_cases hk : u.k.toNat < 3
    · rw [takeWord_of_lt d f hk, takeWord_of_lt e g (a2 ▸ hk)]; constructor <;> simp [*]
    · rw [takeWord_of_last d f hk, takeWord_of_last e g (a2 ▸ hk)]; constructor <;> simp [*]
  unfold transitionWith
  rw [← h1]
  cases hp : s.phase <;> dsimp only
  · exact absurd hp hi
  · have hs : SameCourse s t := ⟨h1, h2, h3, h4, h5, h6, h7, h8⟩
    have hn : SameCourse s.issueRead t.issueRead := by constructor <;> simp [*]
    unfold seedWith
    simp only [← h3, ← h7]
    cases hpend : s.tblPend <;> cases s.tblReqReady <;>
      simp only [Bool.or_true, Bool.or_false, if_true, if_false, Bool.false_eq_true, State.issueRead_tblAnswers,
        ← h8] <;> first | exact hs | (split <;> first | exact hs | exact hn | exact takes hs | exact takes hn)
  · constructor <;> simp [doSquare, *]
  · constructor <;> simp [doApply, *]
  · constructor <;> simp [doAdvance, *]
  · constructor <;> simp [doFinish, *]
  · unfold doRelease; rw [← h6]; split <;> constructor <;> simp_all

theorem courseTurn_sameCourse {s t : State} (hi : s.phase ≠ .idle) (h : SameCourse s t) (hr : s.rst = false) :
    SameCourse (courseTurn s) (courseTurn t) := by
  unfold courseTurn
  rw [← h.rst, hr]
  exact transitionWith_sameCourse _ _ _ _ hi h

theorem drive_sameCourse {s t : State} (m : Move) (h : SameCourse s t) : SameCourse (s.drive m) (t.drive m) := by
  obtain ⟨h1, h2, h3, h4, h5, h6, h7, h8⟩ := h
  cases m <;> constructor <;> simp [State.drive, *]

/-- A table write that changes no read entry leaves what the other moves would change as it was. -/
theorem changesReadEntry_tableWrite {table : Memory} {i : TableIndex} {v : Word} (hw : table.wf = true)
    (h : changesReadEntry table (.setTable i v) = false) (m : Move) :
    changesReadEntry (tableWrite table i v) m = changesReadEntry table m := by
  cases m <;> simp [changesReadEntry]
  rename_i j u
  cases hj : isSeedIndex j <;> simp
  by_cases hij : j = i
  · subst hij
    rw [tableRead_tableWrite_same _ _ hw]
    simp_all [changesReadEntry]
  · rw [tableRead_tableWrite_other _ _ hij]

@[simp] theorem changesInFlight_nil (s : State) : changesInFlight [] s = false := rfl

/-- With no operation in flight there is nothing to change. -/
theorem changesInFlight_idle (l : List Move) {s : State} (h : s.phase = .idle) : changesInFlight l s = false := by
  cases l <;> simp [changesInFlight, h]

/-- The change to come is a matter of the course and of the four entries only. -/
theorem changesInFlight_congr (l : List Move) {s t : State} (h : SameCourse s t)
    (ht : ∀ m, changesReadEntry s.table m = changesReadEntry t.table m) :
    changesInFlight l s = changesInFlight l t := by
  induction l generalizing s t with
  | nil => rfl
  | cons m l ih =>
    simp only [changesInFlight, ← h.phase, ← ht]
    split
    · rfl
    · split
      · rfl
      · split
        · by_cases hr : s.rst = true
          · have hr' : t.rst = true := h.rst ▸ hr
            simp only [courseTurn, hr, hr', if_true]
            rw [changesInFlight_idle l (doReset_phase s), changesInFlight_idle l (doReset_phase t)]
          · have hr : s.rst = false := by simpa using hr
            refine ih (courseTurn_sameCourse ‹_› h hr) ?_
            have hr' : t.rst = false := h.rst ▸ hr
            simpa [courseTurn, hr, hr'] using ht
        · exact ih (drive_sameCourse m h) (by simpa using ht)

/-- With no table change among the moves to come, none comes in flight. -/
theorem changesInFlight_quiet {l : List Move} (h : ∀ m ∈ l, (∀ i v, m ≠ .setTable i v) ∧ m ≠ .disturbTable) (s : State) :
    changesInFlight l s = false := by
  induction l generalizing s with
  | nil => rfl
  | cons m l ih =>
    have hm : changesReadEntry s.table m = false := by
      have := h m (by simp)
      cases m <;> simp_all [changesReadEntry]
    simp only [changesInFlight, hm, Bool.false_eq_true, if_false]
    split
    · rfl
    · exact ih (fun m' hm' => h m' (by simp [hm'])) _

end Sys2Proof.Machine
end

