-- ==== Sys2Proof/Laws/Matrix.lean ====
section
/-! SUPPORT. The small lemmas of the matrix type: reading a row of a built or updated matrix, and equality by rows. -/

namespace Sys2Proof

@[simp] theorem BitMatrix.row_ofRows (f : Fin 32 → Word) (j : Fin 32) : (BitMatrix.ofRows f).row j = f j := by
  simp [BitMatrix.row, BitMatrix.ofRows]

@[simp] theorem BitMatrix.row_setRow_same (m : BitMatrix) (j : Fin 32) (v : Word) : (m.setRow j v).row j = v := by
  simp [BitMatrix.row, BitMatrix.setRow]

theorem BitMatrix.row_setRow_other (m : BitMatrix) {i j : Fin 32} (v : Word) (h : i ≠ j) :
    (m.setRow j v).row i = m.row i := by
  simp only [BitMatrix.row, BitMatrix.setRow, Fin.getElem_fin]
  exact Vector.getElem_set_ne _ _ fun e => h (Fin.ext e.symm)

theorem BitMatrix.ext_rows {m n : BitMatrix} (h : ∀ j, m.row j = n.row j) : m = n :=
  Vector.ext fun i hi => h ⟨i, hi⟩

namespace Machine

/-- The scan of R100 from any starting sum. -/
theorem gf2Mult_scan_start (m : BitMatrix) (v : Word) (l : List (Fin 32)) (a : Word) :
    l.foldl (fun sum j => if v.getLsbD j.val then sum ^^^ m.row j else sum) a =
      a ^^^ l.foldl (fun sum j => if v.getLsbD j.val then sum ^^^ m.row j else sum) 0 := by
  induction l generalizing a with
  | nil => simp
  | cons j l ih =>
    rw [List.foldl_cons, List.foldl_cons, ih, ih (if v.getLsbD j.val then 0 ^^^ m.row j else 0)]
    split <;> simp [BitVec.xor_assoc]

end Machine

end Sys2Proof
end

