-- ==== Sys2Proof/Laws/PerInstr.lean ====
section
/-! SUPPORT. Statements made once per instruction, about the instruction as syntax. -/

namespace Sys2Proof.Laws.CodeLength

/-- A REQ code has 16 bytes and a PHASE code one (R80, R84). -/
def Statement (i : Instr) : Prop :=
  i.wellFormed = true ∧ (encodeBytes i).length = (match encode i with | .req _ => 16 | .phase _ => 1)

theorem combine (crc1 crc2 : Word) (length : Len) : Statement (.combine crc1 crc2 length) := by
  simp [Statement, Instr.wellFormed, encodeBytes, encode, bytesOfWord]
theorem accept : Statement .accept := ⟨rfl, rfl⟩
theorem seed : Statement .seed := ⟨rfl, rfl⟩
theorem square : Statement .square := ⟨rfl, rfl⟩
theorem apply : Statement .apply := ⟨rfl, rfl⟩
theorem advance : Statement .advance := ⟨rfl, rfl⟩
theorem finish : Statement .finish := ⟨rfl, rfl⟩
theorem release : Statement .release := ⟨rfl, rfl⟩

end Sys2Proof.Laws.CodeLength
end

