-- ==== Sys2Proof/Tests/Slice0.lean ====
section
/-! SUPPORT. The model's own tests. Expected values are those of spec/95_test_vectors.md or worked out by hand from
the rule a test names. The instructions have no ill-formed term (WellFormed.lean), so no check refuses one. The
witnesses show, for each statement with hypotheses, states and operands that meet them, clause by clause. -/

namespace Sys2Proof.Machine.Tests

set_option maxRecDepth 10000

/-- The next state, when there is one. -/
def nextOf (o : Host.Outcome State Fault Refusal) : Option State :=
  match o with
  | .next s => some s
  | .fault _ => none
  | .refused _ => none

/-- The four IEEE words of program P1. -/
def ieeeTable : Memory :=
  tableWrite (tableWrite (tableWrite (tableWrite [] 16 0x1DB71064) 32 0x3B6E20C8) 64 0x76DC4190) 128 0xEDB88320

/-- The machine after reset with the IEEE words in the table. -/
def idleState : State := { State.reset with table := ieeeTable }

/-- The request of program P1. -/
def p1Request : Request := ⟨0x9BE3E0A3, 0x131DA070, 5⟩

/-- The matrix O4 of 95_test_vectors.md. -/
def o4 : BitMatrix := initialOdd 0x1DB71064 0x3B6E20C8 0x76DC4190 0xEDB88320

/-- Program P1 after ACCEPT, in phase `p` with seed index `k`. -/
def midState (p : Phase) (k : BitVec 2) (len : Len) : State :=
  { idleState with phase := p, k := k, acc := 0x9BE3E0A3, crc2R := 0x131DA070, lenR := len, matA := o4 }

/-! ### Decoding: words written out from R77, R80 and 95_test_vectors.md section 3 -/

theorem test_decode_combine_VC1 :
    decode (.req 0x0000000000000005131DA0709BE3E0A3) = .ok (.combine 0x9BE3E0A3 0x131DA070 5) := by decide
theorem test_decode_combine_VB3 :
    decode (.req 0x80000000000000009ABCDEF012345678) =
      .ok (.combine 0x12345678 0x9ABCDEF0 0x8000000000000000) := by decide
theorem test_decode_accept : decode (.phase 0b000) = .ok .accept := by decide
theorem test_decode_seed : decode (.phase 0b001) = .ok .seed := by decide
theorem test_decode_square : decode (.phase 0b010) = .ok .square := by decide
theorem test_decode_apply : decode (.phase 0b011) = .ok .apply := by decide
theorem test_decode_advance : decode (.phase 0b100) = .ok .advance := by decide
theorem test_decode_finish : decode (.phase 0b101) = .ok .finish := by decide
theorem test_decode_release : decode (.phase 0b110) = .ok .release := by decide
theorem test_decode_reserved : decode (.phase 0b111) = .error .reservedPhase := by decide
theorem test_decode_bytes_reject :
    decodeBytes [0x08] = .error .notAPhase ∧ decodeBytes [0, 0] = .error .badLength ∧
      decodeBytes [] = .error .badLength := by decide
theorem test_encode_combine_VC5 :
    encode (.combine 0xE8B7BE43 0x71BEEFF9 1) = .req 0x000000000000000171BEEFF9E8B7BE43 := by decide

/-! ### The matrix units (V-M, V-S) -/

theorem test_mult_VM6 : gf2Mult o4 0x0000000F = 0xBDBDF21C := by decide
theorem test_mult_VM10 : gf2Mult o4 0xFFFFFFFF = 0xB2420DE3 := by decide
theorem test_mult_VM11 : gf2Mult o4 0x12345678 = 0xEC9BC647 := by decide
theorem test_grouped_VM11 : gf2MultGrouped o4 0x12345678 = 0xEC9BC647 := by decide
theorem test_square_VS3 :
    (gf2Square o4).row 0 = 0x77073096 ∧ (gf2Square o4).row 7 = 0xEDB88320 ∧
      (gf2Square o4).row 8 = 1 ∧ (gf2Square o4).row 31 = 0x00800000 := by decide
theorem test_mult_VM18 : gf2Mult (gf2Square o4) 0x12345678 = 0x5ECCCD58 := by decide

/-! ### One transition each (program P1 and the rules' examples) -/

/-- P1 transition 1. -/
theorem test_accept_P1 :
    (nextOf (exec .accept { idleState with reqs := [p1Request] })).map
      (fun t => (t.phase, t.acc, t.crc2R, t.lenR, t.k, t.sel)) =
      some (.seed, 0x9BE3E0A3, 0x131DA070, 5, 0, false) := by decide
/-- V-B3: the most negative length takes the shortcut. -/
theorem test_accept_shortcut_VB3 :
    (nextOf (exec .accept { idleState with reqs := [⟨0x12345678, 0x9ABCDEF0, 0x8000000000000000⟩] })).map
      (fun t => (t.phase, t.res)) = some (.respond, 0x12345678) := by decide
/-- P1 transition 4: K = 2 reads index 64 into row 2. -/
theorem test_seed_P1_k2 :
    (nextOf (exec .seed (midState .seed 2 5))).map (fun t => (t.phase, t.k, t.matA.row 2, t.reads)) =
      some (.seed, 3, 0x76DC4190, [64]) := by decide
/-- P1 transition 5: the last seed row, with SEL = 1 so that ODD is MAT_B, and the fixed rows. -/
theorem test_seed_last_sel1 :
    (nextOf (exec .seed { midState .seed 3 5 with sel := true })).map
      (fun t => (t.phase, t.k, t.matB.row 3, t.matB.row 4, t.matB.row 31)) =
      some (.square, 3, 0xEDB88320, 0x00000001, 0x08000000) := by decide
/-- P1 transition 6. -/
theorem test_square_P1 :
    (nextOf (exec .square (midState .square 3 5))).map (fun t => (t.phase, t.matB.row 0, t.matA.row 0)) =
      some (.apply, 0x77073096, 0x1DB71064) := by decide
/-- P1 transition 7. -/
theorem test_apply_P1 :
    (nextOf (exec .apply { midState .apply 3 5 with matB := gf2Square o4 })).map (fun t => (t.phase, t.acc)) =
      some (.advance, 0x4F4411B2) := by decide
/-- P1 transition 10: bit 0 clear. -/
theorem test_apply_bit0_clear :
    (nextOf (exec .apply (midState .apply 3 2))).map (fun t => (t.phase, t.acc)) =
      some (.advance, 0x9BE3E0A3) := by decide
/-- P1 transition 8. -/
theorem test_advance_P1 :
    (nextOf (exec .advance (midState .advance 3 5))).map (fun t => (t.phase, t.lenR, t.sel)) =
      some (.square, 2, true) := by decide
/-- P1 transition 14: the last bit ends the loop. -/
theorem test_advance_last :
    (nextOf (exec .advance (midState .advance 3 1))).map (fun t => (t.phase, t.lenR)) = some (.finish, 0) := by
  decide
/-- P1 transition 15. -/
theorem test_finish_P1 :
    (nextOf (exec .finish { midState .finish 3 0 with acc := 0xD8E99956 })).map (fun t => (t.phase, t.res)) =
      some (.respond, 0xCBF43926) := by decide
/-- P1 transition 16. -/
theorem test_release_P1 :
    (nextOf (exec .release { midState .respond 3 0 with res := 0xCBF43926 })).map (fun t => (t.phase, t.responses)) =
      some (.idle, [0xCBF43926]) := by decide
/-- R154: a host that is not ready keeps the block in RESPOND. -/
theorem test_release_waits :
    (nextOf (exec .release { midState .respond 3 0 with rspReady := false })).map (fun t => (t.phase, t.responses)) =
      some (.respond, []) := by decide
/-- V-C5: a whole operation, "a" and "b". -/
theorem test_combine_VC5 :
    (nextOf (exec (.combine 0xE8B7BE43 0x71BEEFF9 1) idleState)).map (fun t => (t.responses, t.reads)) =
      some ([0x9E83486D], [16, 32, 64, 128]) := by decide
/-- V-B2: length -1. -/
theorem test_combine_VB2 :
    (nextOf (exec (.combine 0x12345678 0x9ABCDEF0 (-1)) idleState)).map (fun t => (t.responses, t.reads)) =
      some ([0x12345678], []) := by decide
/-- V-N6: a table of ones. -/
theorem test_engine_VN6 : engine 0xFFFFFFFF 0xFFFFFFFF 0xFFFFFFFF 0xFFFFFFFF 1 1 = 0x0FFFFFFF := by decide
/-- The check value of the standard CRC (G4). -/
theorem test_crc_check_value :
    crc32 0xEDB88320 [0x31, 0x32, 0x33, 0x34, 0x35, 0x36, 0x37, 0x38, 0x39] = 0xCBF43926 := by decide
/-- TABLE[16] and TABLE[128] of the Koopman polynomial (95_test_vectors.md). -/
theorem test_koopman_table :
    reflectedTable 0xEB31D82E 16 = 0x83CF0F3C ∧ reflectedTable 0xEB31D82E 128 = 0xEB31D82E := by decide

/-! ### The step, the agents and reset -/

/-- R61, D19: a change of entry 16 that comes after its read makes a draw of the word read before it; a change after the
response (here after the release) does not. -/
theorem test_seed_before_change :
    (nextOf (exec .seed { midState .seed 0 5 with agenda := [.block, .setTable 16 0] })).map (fun t => t.draws) =
      some 1 ∧
    (nextOf (exec .seed { midState .seed 0 5 with agenda := [.block, .setTable 16 0x1DB71064] })).map
      (fun t => (t.draws, t.matA.row 0)) = some (0, 0x1DB71064) ∧
    changesInFlight [.block, .setTable 16 0] (midState .respond 3 0) = false := by decide
/-- R61: so in a COMBINE that waits in RESPOND, with the change still to come. -/
theorem test_combine_before_change :
    (nextOf (exec (.combine 1 2 1) { idleState with rspReady := false, agenda := [.setTable 16 0] })).map
      (fun t => (t.phase, t.draws)) = some (.respond, 4) ∧
    (nextOf (exec (.combine 1 2 1) { idleState with rspReady := false, agenda := [.setTable 17 0] })).map
      (fun t => (t.phase, t.draws)) = some (.respond, 0) := by decide
/-- R61: a read entry changed in flight unsettles the operation, another entry does not. -/
theorem test_table_change_in_flight :
    (nextOf (step { midState .seed 1 5 with agenda := [.setTable 128 7] })).map (fun t => t.tblDirty) = some true ∧
    (nextOf (step { midState .seed 1 5 with agenda := [.setTable 127 7] })).map (fun t => t.tblDirty) =
      some false := by decide
/-- P5: reset with a read outstanding. -/
theorem test_reset_edge :
    (nextOf (step { midState .seed 2 5 with rst := true, tblPend := true })).map
      (fun t => (t.phase, t.tblPend, t.responses)) = some (.idle, false, []) := by decide
/-- The first step of a table word has the effect of the instruction it encodes (R150, R151, R153). -/
theorem test_fetch_words :
    (nextOf (step (State.reset.withFetchWord 8 0b101))).map (fun t => t.phase) = some .respond ∧
    (nextOf (step (State.reset.withFetchWord 8 0b000))).map (fun t => (t.phase, t.reqs)) = some (.respond, []) ∧
    (nextOf (step (State.reset.withFetchWord 128 0x00000000000000009ABCDEF012345678))).map
      (fun t => t.responses) = some [0x12345678] := by decide
/-- Each PHASE row of the opcode table runs as the first instruction after reset, in place. -/
theorem test_fetch_phase_rows :
    step (State.reset.withFetchWord 8 0) = exec .accept (State.reset.withFetchWord 8 0) ∧
    step (State.reset.withFetchWord 8 1) = exec .seed (State.reset.withFetchWord 8 1) ∧
    step (State.reset.withFetchWord 8 2) = exec .square (State.reset.withFetchWord 8 2) ∧
    step (State.reset.withFetchWord 8 3) = exec .apply (State.reset.withFetchWord 8 3) ∧
    step (State.reset.withFetchWord 8 4) = exec .advance (State.reset.withFetchWord 8 4) ∧
    step (State.reset.withFetchWord 8 5) = exec .finish (State.reset.withFetchWord 8 5) ∧
    step (State.reset.withFetchWord 8 6) = exec .release (State.reset.withFetchWord 8 6) ∧
    decodeTableWord 8 7 = none := ⟨rfl, rfl, rfl, rfl, rfl, rfl, rfl, by decide⟩
/-- So does COMBINE, with the command taken off the agenda. -/
theorem test_fetch_combine_row :
    step (State.reset.withFetchWord 128 0) = exec (.combine 0 0 0) State.reset := rfl
theorem test_reset_wf : State.reset.table.wf = true ∧ ieeeTable.wf = true := by decide

/-! ### Witnesses -/

theorem idleState_ready : idleState.Ready := ⟨rfl, rfl, rfl⟩
theorem idleState_responsive : idleState.Responsive := ⟨rfl, rfl, rfl⟩

theorem midState_inv (p : Phase) (hp : p = .square ∨ p = .apply ∨ p = .advance) : (midState p 3 5).Inv := by
  refine ⟨test_reset_wf.2, fun _ => (by decide : lenNonPositive 5 = false), fun h => ?_, fun h => ?_, fun _ => rfl⟩
  · rcases hp with rfl | rfl | rfl <;> cases h
  · cases h

theorem test_witness_DecodeEncodeRoundTrip :
    (Instr.combine 0xFFFFFFFF 0 0x8000000000000000).wellFormed = true ∧ Instr.release.wellFormed = true := by decide
theorem test_witness_EncodeDecodeRoundTrip :
    decode (.phase 0b110) = .ok .release ∧ decode (.req 0) = .ok (.combine 0 0 0) := by decide
theorem test_witness_StepRunsDecoded :
    (midState .apply 3 5).agenda = [] ∧ (midState .apply 3 5).rst = false ∧ Instr.apply.wellFormed = true ∧
      decode (.phase (phaseBits (midState .apply 3 5).phase)) = .ok .apply ∧
      ({ midState .apply 3 5 with agenda := [.block] } : State).agenda = .block :: [] ∧
      ({ midState .apply 3 5 with agenda := [.command 0] } : State).agenda = .command 0 :: [] ∧
      decode (.req 0) = .ok (.combine 0 0 0) := by decide
theorem test_witness_AgentMovesFrame :
    ∀ m : Move, ({ idleState with agenda := [m] } : State).agenda = m :: [] := fun _ => rfl
theorem test_witness_TableWriteThenRead :
    ({ idleState with agenda := [.setTable 255 0xFFFFFFFF] } : State).agenda = .setTable 255 0xFFFFFFFF :: [] ∧
      ({ idleState with agenda := [.setTable 255 0xFFFFFFFF] } : State).table.wf = true := by decide
theorem test_witness_TableChangeInFlight :
    let s : State := { midState .respond 3 5 with agenda := [.setTable 16 0] }
    s.agenda = .setTable 16 0 :: [] ∧ s.phase ≠ .idle ∧ tableRead s.table 16 ≠ 0 ∧
      ({ s with agenda := [.disturbTable] } : State).agenda = .disturbTable :: [] ∧
      (midState .seed 0 5).tblDirty = false ∧
      (∀ m ∈ [Move.block, .setTblAnswers true], (∀ i v, m ≠ .setTable i v) ∧ m ≠ .disturbTable) :=
  ⟨rfl, by decide, by decide, rfl, rfl, fun m h => by
    rcases List.mem_pair.1 h with rfl | rfl <;> exact ⟨fun _ _ h => Move.noConfusion h, fun h => Move.noConfusion h⟩⟩
/-- Unsettled by a change to come, and settled. -/
theorem test_witness_UnsettledUntilResponse :
    let s : State := { midState .seed 1 5 with agenda := [.block, .setTable 16 0] }
    let q : State := midState .square 3 5
    s.table.wf = true ∧ s.phase ≠ .idle ∧ (nextOf (step s)).map (fun t => t.phase) = some .seed ∧ s.unsettled = true ∧
      q.table.wf = true ∧ q.phase ≠ .idle ∧ (nextOf (step q)).map (fun t => t.phase) = some .apply ∧
      q.unsettled = false := by decide
/-- The change past, and the change to come. -/
theorem test_witness_AllFourWordsDrawn :
    let s : State := { midState .seed 0 5 with tblDirty := true }
    let q : State := { midState .seed 0 5 with agenda := [.block, .block, .block, .block] ++ [.setTable 16 0] }
    s.phase = .seed ∧ s.k = 0 ∧ s.tblPend = false ∧ s.rst = false ∧ s.TablePrompt ∧ s.unsettled = true ∧
      s.agenda = [] ∧ q.phase = .seed ∧ q.k = 0 ∧ q.tblPend = false ∧ q.rst = false ∧ q.TablePrompt ∧
      q.unsettled = true ∧ q.agenda = [.block, .block, .block, .block] ++ [.setTable 16 0] :=
  ⟨rfl, rfl, rfl, rfl, ⟨rfl, rfl⟩, rfl, rfl, rfl, rfl, rfl, rfl, ⟨rfl, rfl⟩, by decide, rfl⟩
theorem test_witness_ResetEdge :
    ({ midState .seed 2 5 with rst := true } : State).rst = true ∧
      ({ midState .seed 2 5 with rst := true } : State).agenda = [] := by decide
theorem test_witness_ResetAbandonsOperation :
    let s : State := { midState .seed 2 5 with agenda := resetMoves ++ [.command (packReq 1 2 3)] }
    s.reqs = [] ∧ s.Responsive ∧ s.agenda = resetMoves ++ [.command (packReq 1 2 3)] :=
  ⟨rfl, ⟨rfl, rfl, rfl⟩, rfl⟩
/-- Each output at 1 and at 0, and each value of K. -/
theorem test_witness_PortOutputs :
    idleState.reqReady = true ∧ (midState .seed 0 5).reqReady = false ∧
      ({ idleState with rst := true } : State).reqReady = false ∧ (midState .respond 3 0).rspValid = true ∧
      idleState.rspValid = false ∧ (midState .finish 3 0).busy = true ∧ idleState.busy = false ∧
      (midState .seed 0 5).tblReqValid = true ∧
      ({ midState .seed 0 5 with tblPend := true } : State).tblReqValid = false ∧
      (midState .square 3 5).tblReqValid = false ∧ (midState .seed 0 5).k = 0 ∧
      (midState .seed 1 5).k = 1 ∧ (midState .seed 2 5).k = 2 ∧ (midState .seed 3 5).k = 3 ∧
      (midState .respond 3 0).rst = false := by decide
/-- Each transfer happens in some state. -/
theorem test_witness_TransferConditions :
    ({ idleState with reqs := [p1Request] } : State).reqTransfer = true ∧
      (midState .respond 3 0).rspTransfer = true ∧ (midState .seed 0 5).tblReqTransfer = true ∧
      ({ midState .seed 0 5 with tblPend := true } : State).tblRspTransfer = true := by decide
/-- A state for each clause: each transfer happens, and none. -/
theorem test_witness_TransfersHappenAtStep :
    let a : State := { idleState with reqs := [p1Request] }
    let b : State := { midState .seed 3 5 with tblPend := true }
    let d : State := { midState .seed 0 5 with tblAnswers := false }
    a.Inv ∧ a.agenda = [] ∧ a.reqTransfer = true ∧ a.rspTransfer = false ∧ a.tblReqTransfer = false ∧
      b.Inv ∧ b.agenda = [] ∧ b.tblRspTransfer = true ∧ b.reqTransfer = false ∧
      (midState .respond 3 0).Inv ∧ (midState .respond 3 0).agenda = [] ∧ (midState .respond 3 0).rspTransfer = true ∧
      (midState .seed 0 5).Inv ∧ (midState .seed 0 5).agenda = [] ∧ (midState .seed 0 5).tblReqTransfer = true ∧
      (midState .seed 0 5).tblAnswers = true ∧ d.Inv ∧ d.agenda = [] ∧ d.tblReqTransfer = true ∧
      d.tblAnswers = false := by
  refine ⟨⟨test_reset_wf.2, nofun, nofun, nofun, ?_⟩, rfl, by decide, by decide, by decide,
    ⟨test_reset_wf.2, fun _ => (by decide : lenNonPositive 5 = false), nofun, fun _ => rfl, ?_⟩, rfl, by decide,
    by decide, ⟨test_reset_wf.2, nofun, nofun, nofun, ?_⟩, rfl, by decide,
    ⟨test_reset_wf.2, fun _ => (by decide : lenNonPositive 5 = false), nofun, nofun, ?_⟩, rfl, by decide, rfl,
    ⟨test_reset_wf.2, fun _ => (by decide : lenNonPositive 5 = false), nofun, nofun, ?_⟩, rfl, by decide, rfl⟩ <;>
  · intro h
    rcases h with h | h | h | h <;> cases h
theorem test_witness_AtMostOneTransfer : (midState .square 3 5).Inv := midState_inv _ (.inl rfl)
/-- R76's clause of AtMostOneTransfer: a state with a read outstanding. -/
theorem test_witness_AtMostOneTransfer_pend :
    ({ midState .seed 1 5 with tblPend := true } : State).Inv ∧
      ({ midState .seed 1 5 with tblPend := true } : State).tblPend = true :=
  ⟨⟨test_reset_wf.2, fun _ => (by decide : lenNonPositive 5 = false), fun h => Phase.noConfusion h, fun _ => rfl,
    fun h => (by rcases h with h | h | h | h <;> cases h)⟩, rfl⟩
theorem test_witness_SquareRowOrderFree : ∀ n, n ∈ (List.finRange 32).reverse := by decide
theorem test_witness_AcceptCompletes_one :
    ({ idleState with reqs := [⟨1, 2, 1⟩] } : State).reqs = ⟨1, 2, 1⟩ :: [] ∧ 0 < (1 : Len).toInt := by decide
theorem test_witness_AcceptCompletes_zero :
    ({ idleState with reqs := [⟨1, 2, 0⟩] } : State).reqs = ⟨1, 2, 0⟩ :: [] ∧ (0 : Len).toInt ≤ 0 ∧
      (0x8000000000000000 : Len).toInt ≤ 0 := by decide
theorem test_witness_AcceptWaits : idleState.reqs = [] := rfl
theorem test_witness_SeedCompletes_k2 :
    ((midState .seed 2 5).tblPend = true ∨ (midState .seed 2 5).tblReqReady = true) ∧
      (midState .seed 2 5).tblAnswers = true ∧ (midState .seed 2 5).k ≠ 3 ∧ (midState .seed 2 5).wordDrawn = false ∧
      tableRead (midState .seed 2 5).table (16#8 <<< (midState .seed 2 5).k.toNat) = 0x76DC4190 := by decide
theorem test_witness_SeedCompletes_k3 :
    ((midState .seed 3 5).tblPend = true ∨ (midState .seed 3 5).tblReqReady = true) ∧
      (midState .seed 3 5).tblAnswers = true ∧ (midState .seed 3 5).k = 3 ∧
      (midState .seed 3 5).wordDrawn = false := by decide
/-- With the change past, and with the change to come. -/
theorem test_witness_SeedDrawsInUnsettledOperation :
    let s (k : BitVec 2) : State := { midState .seed k 5 with tblDirty := true }
    let q (k : BitVec 2) : State := { midState .seed k 5 with agenda := [.block, .setTable 16 0] }
    (∀ k, ((s k).tblPend = true ∨ (s k).tblReqReady = true) ∧ (s k).tblAnswers = true ∧ (s k).wordDrawn = true) ∧
      (∀ k, ((q k).tblPend = true ∨ (q k).tblReqReady = true) ∧ (q k).tblAnswers = true) ∧
      (q 0).wordDrawn = true ∧ (q 3).wordDrawn = true ∧ (s 0).k ≠ 3 ∧ (s 3).k = 3 ∧ (q 0).k ≠ 3 ∧ (q 3).k = 3 :=
  ⟨fun _ => ⟨.inr rfl, rfl, rfl⟩, fun _ => ⟨.inr rfl, rfl⟩, by decide, by decide, by decide, rfl, by decide, rfl⟩
theorem test_witness_SeedingBuildsInitialOdd :
    (midState .seed 0 5).agenda = [] ∧ (midState .seed 0 5).rst = false ∧ (midState .seed 0 5).phase = .seed ∧
      (midState .seed 0 5).k = 0 ∧ (midState .seed 0 5).tblPend = false ∧ (midState .seed 0 5).tblDirty = false ∧
      (midState .seed 0 5).TablePrompt := ⟨rfl, rfl, rfl, rfl, rfl, rfl, ⟨rfl, rfl⟩⟩
theorem test_witness_SeedWaits :
    (∃ s : State, s.tblPend = false ∧ s.tblReqReady = false) ∧
      (∃ s : State, s.tblPend = false ∧ s.tblReqReady = true ∧ s.tblAnswers = false) ∧
      (∃ s : State, s.tblPend = true ∧ s.tblAnswers = false) :=
  ⟨⟨{ midState .seed 0 5 with tblReqReady := false }, rfl, rfl⟩,
    ⟨{ midState .seed 0 5 with tblAnswers := false }, rfl, rfl, rfl⟩,
    ⟨{ midState .seed 0 5 with tblPend := true, tblAnswers := false }, rfl, rfl⟩⟩
theorem test_witness_SquareCompletes :
    (midState .square 3 5).sel = false ∧ ({ midState .square 3 5 with sel := true } : State).sel = true := ⟨rfl, rfl⟩
theorem test_witness_ApplyCompletes :
    (midState .apply 3 5).lenR.toNat % 2 = 1 ∧ (midState .apply 3 5).sel = false ∧
      ({ midState .apply 3 5 with sel := true } : State).sel = true ∧ (midState .apply 3 2).lenR.toNat % 2 = 0 ∧
      ({ midState .apply 3 5 with acc := 0 } : State).acc = 0 := by decide
theorem test_witness_AdvanceCompletes :
    (midState .advance 3 1).lenR.toNat ≤ 1 ∧ 1 < (midState .advance 3 2).lenR.toNat ∧
      exec .advance (midState .advance 3 2) = .next (doAdvance (midState .advance 3 2)) :=
  ⟨by decide, by decide, rfl⟩
theorem test_witness_FinishCompletes :
    ({ midState .finish 3 0 with crc2R := 0 } : State).crc2R = 0 ∧
      ({ midState .finish 3 0 with acc := 0 } : State).acc = 0 := ⟨rfl, rfl⟩
theorem test_witness_ReleaseCompletes : (midState .respond 3 0).rspReady = true := rfl
theorem test_witness_RespondWaits :
    let s : State := { midState .respond 3 0 with rspReady := false }
    s.phase = .respond ∧ s.rst = false ∧ s.agenda = [] ∧ s.rspReady = false := by decide
theorem test_witness_IdleAndSeedWait :
    idleState.rst = false ∧ idleState.agenda = [] ∧ idleState.phase = .idle ∧ idleState.reqs = [] ∧
      ({ midState .seed 1 5 with tblAnswers := false } : State).rst = false ∧
      ({ midState .seed 1 5 with tblAnswers := false } : State).agenda = [] ∧
      ({ midState .seed 1 5 with tblAnswers := false } : State).phase = .seed ∧
      ({ midState .seed 1 5 with tblAnswers := false } : State).tblAnswers = false := by decide
/-- Both agents delay, and the host delays a table agent that is already prompt. -/
theorem test_witness_RespondReachedWhenTableAnswers :
    let s : State :=
      { midState .seed 1 5 with
        rspReady := false, tblAnswers := false
        agenda := [.setTblReqReady false, .block, .setTblReqReady true, .block, .block, .setTblAnswers true] }
    s.phase ≠ .idle ∧ s.NoReset ∧ s.AnswersEventually ∧ ¬ s.TablePrompt :=
  ⟨by decide, ⟨rfl, by decide⟩, ⟨rfl, rfl⟩, fun h => nomatch h.answers⟩
theorem test_witness_IdleReachedWhenHostTakes :
    let s : State :=
      { midState .respond 3 0 with
        rspReady := false, tblReqReady := false
        agenda := [.block, .setRspReady true, .setRspReady false, .block, .setRspReady true] }
    s.phase = .respond ∧ s.NoReset ∧ s.TakesEventually ∧ s.rspReady = false :=
  ⟨rfl, ⟨rfl, by decide⟩, rfl, rfl⟩
/-- A state for each clause, and for a change of a read entry to come or not. -/
theorem test_witness_CombineStalls :
    let h : State := { idleState with rspReady := false }
    let c : State := { h with agenda := [.setTable 16 0] }
    let a : State := { idleState with tblReqReady := false }
    let b : State := { idleState with tblAnswers := false }
    h.Ready ∧ h.reqs = [] ∧ h.rspReady = false ∧ h.TablePrompt ∧ c.Ready ∧ c.reqs = [] ∧ c.rspReady = false ∧
      c.TablePrompt ∧ changesInFlight h.agenda (midState .respond 3 0) = false ∧
      changesInFlight c.agenda (midState .respond 3 0) = true ∧ a.Ready ∧ a.reqs = [] ∧ a.tblReqReady = false ∧
      b.Ready ∧ b.reqs = [] ∧ b.tblReqReady = true ∧ b.tblAnswers = false ∧ (0 : Len).toInt ≤ 0 ∧
      0 < (1 : Len).toInt :=
  ⟨⟨rfl, rfl, rfl⟩, rfl, rfl, ⟨rfl, rfl⟩, ⟨rfl, rfl, rfl⟩, rfl, rfl, ⟨rfl, rfl⟩, by decide, by decide,
    ⟨rfl, rfl, rfl⟩, rfl, rfl, ⟨rfl, rfl, rfl⟩, rfl, rfl, rfl, by decide, by decide⟩
theorem test_witness_CombineWaits :
    (midState .respond 3 5).phase ≠ .idle ∧ ({ idleState with rst := true } : State).rst = true ∧
      ({ idleState with reqs := [p1Request] } : State).reqs ≠ [] := by decide
theorem test_witness_InstructionsKeepTable :
    exec .square (midState .square 3 5) = .next (doSquare (midState .square 3 5)) := rfl
theorem test_witness_NextSquareKeepsAppliedBuffer :
    (midState .apply 3 2).phase = .apply ∧ (midState .apply 3 2).rst = false ∧ (midState .apply 3 2).agenda = [] ∧
      1 < (midState .apply 3 2).lenR.toNat := by decide
theorem test_witness_StepKeepsInvariant :
    (midState .advance 3 5).Inv ∧ step (midState .advance 3 5) = .next (doAdvance (midState .advance 3 5)) :=
  ⟨midState_inv _ (.inr (.inr rfl)), rfl⟩
theorem test_witness_CombineCompletes :
    idleState.Ready ∧ idleState.reqs = [] ∧ idleState.Responsive ∧ (0 : Len).toInt ≤ 0 ∧ 0 < (1 : Len).toInt :=
  ⟨idleState_ready, rfl, idleState_responsive, by decide, by decide⟩
theorem test_witness_CombineEqualsItsTransitions :
    idleState.Ready ∧ idleState.reqs = [] ∧ idleState.Responsive ∧ idleState.agenda = [] :=
  ⟨idleState_ready, rfl, idleState_responsive, rfl⟩
theorem test_witness_OperationEndsExactly :
    let s : State := { idleState with reqs := [p1Request, p1Request] }
    s.Ready ∧ s.reqs = p1Request :: [p1Request] ∧ s.Responsive ∧ s.agenda = [] ∧ 0 < 1 ∧
      1 < transitionCount p1Request.length :=
  ⟨⟨rfl, rfl, rfl⟩, rfl, ⟨rfl, rfl, rfl⟩, rfl, by decide, by decide⟩
theorem test_witness_ShortcutReturnsCrc1 :
    let s : State := { idleState with reqs := [⟨1, 2, 0⟩], tblReqReady := false }
    s.Ready ∧ s.reqs = ⟨1, 2, 0⟩ :: [] ∧ s.rspReady = true ∧ s.agenda = [] ∧ (0 : Len).toInt ≤ 0 :=
  ⟨⟨rfl, rfl, rfl⟩, rfl, rfl, rfl, by decide⟩
theorem test_witness_LoopInvariantKept :
    let s : State := { midState .square 3 5 with acc := 7 }
    s.phase = .square ∧ s.rst = false ∧ s.agenda = [] ∧
      (∀ v, gf2Mult s.odd v = matrixPower o4 (2 ^ 0) v) ∧ s.lenR = (5 : Len) >>> 0 ∧
      s.acc = matrixPower o4 (2 * ((5 : Len).toNat % 2 ^ 0)) 7 :=
  ⟨rfl, rfl, rfl, fun _ => rfl, by decide, by decide⟩
theorem test_witness_LoopTerminates :
    (midState .square 3 5).Inv ∧ (midState .square 3 5).phase = .square ∧ (midState .square 3 5).rst = false ∧
      (midState .square 3 5).agenda = [] := ⟨midState_inv _ (.inl rfl), rfl, rfl, rfl⟩
theorem test_witness_EngineClosedForm :
    let s : State := { idleState with reqs := [⟨1, 2, 1⟩], rspReady := false }
    s.Ready ∧ s.reqs = ⟨1, 2, 1⟩ :: [] ∧ s.TablePrompt ∧ s.agenda = [] ∧ 0 < (1 : Len).toInt :=
  ⟨⟨rfl, rfl, rfl⟩, rfl, ⟨rfl, rfl⟩, rfl, by decide⟩
theorem test_witness_ResultIndependence :
    let s : State := { idleState with acc := 1, k := 3, sel := true, matB := o4, table := tableWrite ieeeTable 5 9 }
    idleState.Ready ∧ s.Ready ∧ idleState.reqs = [] ∧ s.reqs = [] ∧ idleState.Responsive ∧ s.Responsive ∧
      (∀ i : TableIndex, i = 16 ∨ i = 32 ∨ i = 64 ∨ i = 128 → tableRead idleState.table i = tableRead s.table i) :=
  ⟨⟨rfl, rfl, rfl⟩, ⟨rfl, rfl, rfl⟩, rfl, rfl, ⟨rfl, rfl, rfl⟩, ⟨rfl, rfl, rfl⟩, by
    rintro i (rfl | rfl | rfl | rfl) <;> decide⟩
theorem test_witness_CombineIsCrcOfConcatenation :
    idleState.Ready ∧ idleState.reqs = [] ∧ idleState.Responsive ∧
      (∀ i : TableIndex, i = 16 ∨ i = 32 ∨ i = 64 ∨ i = 128 →
        tableRead idleState.table i = reflectedTable 0xEDB88320 i) ∧
      ([0x35, 0x36, 0x37, 0x38, 0x39] : List Byte).length < 2 ^ 63 :=
  ⟨idleState_ready, rfl, idleState_responsive, by rintro i (rfl | rfl | rfl | rfl) <;> decide, by decide⟩
/-- Two lengths of a real split, an empty B, an empty C, and the largest sum. -/
theorem test_witness_CombineAssociative :
    let meets (lenB lenC : Len) (b : Word) : Prop :=
      0 ≤ lenB.toInt ∧ 0 ≤ lenC.toInt ∧ lenB.toInt + lenC.toInt < 2 ^ 63 ∧ (lenB = 0 → b = 0)
    meets 15 12 0xD19E4810 ∧ meets 0 12 0 ∧ meets 15 0 0xD19E4810 ∧ meets 0 0 0 ∧ meets 0x7FFFFFFFFFFFFFFF 0 1 := by
  decide
theorem test_witness_EmptyStreams : (0 : Len).toInt ≤ 0 ∧ 0 < (1 : Len).toInt := by decide
theorem test_witness_CyclesBoundTransitions : (Latency.mk 1 1 1 1 1 1 1).positive = true := by decide

end Sys2Proof.Machine.Tests
end

section
/-! PROOF. The product of R100 read bit by bit. -/

namespace Sys2Proof.Machine

/-- Adding the row that one bit of `v` selects, seen at bit `i`: XOR of words is XOR of bits, selection is AND (R11). -/
theorem getLsbD_xor_selectedRow (row sum : Word) (selected : Bool) (i : Nat) :
    (if selected then sum ^^^ row else sum).getLsbD i = xor (sum.getLsbD i) (selected && row.getLsbD i) := by
  cases selected
  case false => simp
  case true => simp

/-- The scan of R100 over any rows and from any sum, seen at bit `i`. -/
theorem getLsbD_gf2Mult_scan (m : BitMatrix) (v : Word) (i : Nat) (l : List (Fin 32)) (a : Word) :
    (l.foldl (fun sum j => if v.getLsbD j.val then sum ^^^ m.row j else sum) a).getLsbD i =
      l.foldl (fun b j => xor b (v.getLsbD j.val && (m.row j).getLsbD i)) (a.getLsbD i) :=
  (List.foldl_hom (BitVec.getLsbD · i) fun sum j =>
    (getLsbD_xor_selectedRow (m.row j) sum (v.getLsbD j.val) i).symm).symm

/-- Settles O17: reading bit `i` carries the scan of words over to the scan of bits, and the sum starts at 0. -/
theorem gf2MultBits : Obligations.Gf2MultBits := by
  intro m v i
  have hscan := getLsbD_gf2Mult_scan m v i (List.finRange 32) 0
  rwa [BitVec.ofNat_eq_ofNat, BitVec.getLsbD_zero] at hscan

end Sys2Proof.Machine
end

section
/-! PROOF. The machine right after reset, and the invariant that every step keeps. -/

namespace Sys2Proof.Machine

/-! ### Positive lengths -/

/-- A positive length, read as a number (R11). -/
theorem lenNonPositive_eq_false_iff (n : Len) : lenNonPositive n = false ↔ 0 < n.toNat ∧ n.toNat < 2 ^ 63 := by
  have hsigned : lenNonPositive n = decide (n.toInt ≤ 0) := by simp [lenNonPositive, BitVec.sle]
  rw [hsigned, decide_eq_false_iff_not, BitVec.toInt_eq_toNat_cond]
  split <;> omega

theorem toNat_lenShift (n : Len) : (lenShift n).toNat = n.toNat / 2 := by
  simp [lenShift, Nat.shiftRight_eq_div_pow]

theorem lenLast_iff (n : Len) : lenLast n = true ↔ lenShift n = 0 := by
  simp [lenLast]

/-- A positive length that ADVANCE does not shift to 0 stays positive. -/
theorem lenNonPositive_lenShift {n : Len} (hpos : lenNonPositive n = false) (hlast : lenLast n = false) :
    lenNonPositive (lenShift n) = false := by
  rw [lenNonPositive_eq_false_iff] at hpos ⊢
  have hne : (lenShift n).toNat ≠ 0 := fun h0 =>
    Bool.eq_false_iff.1 hlast ((lenLast_iff n).2 (BitVec.eq_of_toNat_eq h0))
  rw [toNat_lenShift] at hne ⊢
  omega

/-! ### The block's transitions -/

/-- The invariant speaks of the TABLE, PHASE, K, TBL_PEND and LEN_R only. -/
theorem State.Inv.of_eq {s t : State} (h : s.Inv) (htable : t.table.wf = true) (hphase : t.phase = s.phase)
    (hk : t.k = s.k) (hpend : t.tblPend = s.tblPend) (hlen : t.lenR = s.lenR) : t.Inv where
  table_wf := htable
  len_positive := by rw [hphase, hlen]; exact h.len_positive
  len_done := by rw [hphase, hlen]; exact h.len_done
  pend_in_seed := by rw [hphase, hpend]; exact h.pend_in_seed
  k_last := by rw [hphase, hk]; exact h.k_last

/-- Outside SEED no table read is outstanding (R76). -/
theorem State.Inv.tblPend_eq_false {s : State} (h : s.Inv) (hp : s.phase ≠ .seed) : s.tblPend = false :=
  Bool.eq_false_iff.2 fun hpend => hp (h.pend_in_seed hpend)

theorem doReset_inv {s : State} (h : s.Inv) : (doReset s).Inv := by
  constructor <;> simp [h.table_wf, Phase.inEngine]

theorem doAccept_inv {s : State} (h : s.Inv) (hp : s.phase = .idle) : (doAccept s).Inv := by
  have hpend := h.tblPend_eq_false (by simp [hp])
  rcases hr : s.reqs with _ | ⟨r, rest⟩
  case nil => simpa [doAccept, hr] using h
  case cons =>
    cases hl : lenNonPositive r.length <;> constructor <;>
      simp [doAccept, hr, hl, hpend, h.table_wf, Phase.inEngine]

/-- The word taken is followed by the next seed row, or by SQUARE with K at 3 (R120). -/
theorem takeWord_inv {s : State} (d : Word) (fresh : Bool) (h : s.Inv) (hp : s.phase = .seed) :
    (s.takeWord d fresh).Inv := by
  have hpos := h.len_positive (by simp [hp, Phase.inEngine])
  by_cases hk : s.k.toNat < 3
  case pos =>
    rw [takeWord_of_lt d fresh hk]
    constructor <;> simp [hp, hpos, h.table_wf]
  case neg =>
    have hk3 : s.k = 3 := by bv_omega
    rw [takeWord_of_last d fresh hk]
    constructor <;> simp [hpos, hk3, h.table_wf]

theorem issueRead_inv {s : State} (h : s.Inv) (hp : s.phase = .seed) : s.issueRead.Inv := by
  have hpos := h.len_positive (by simp [hp, Phase.inEngine])
  constructor <;> simp [hp, hpos, h.table_wf]

theorem seedWith_inv {s : State} (d : Word) (fresh : Bool) (h : s.Inv) (hp : s.phase = .seed) :
    (seedWith d fresh s).Inv := by
  rcases seedWith_cases d fresh s with ⟨-, -, e⟩ | ⟨-, -, -, e⟩ | ⟨-, -, e⟩ | ⟨-, -, -, e⟩ | ⟨-, -, e⟩ <;> rw [e]
  · exact h
  · exact issueRead_inv h hp
  · exact h
  · exact takeWord_inv d fresh (issueRead_inv h hp) hp
  · exact takeWord_inv d fresh h hp

theorem doSquare_inv {s : State} (h : s.Inv) (hp : s.phase = .square) : (doSquare s).Inv := by
  have hpos := h.len_positive (by simp [hp, Phase.inEngine])
  have hpend := h.tblPend_eq_false (by simp [hp])
  have hk := h.k_last (by simp [hp])
  constructor <;> simp [doSquare, hpos, hpend, hk, h.table_wf]

theorem doApply_inv {s : State} (h : s.Inv) (hp : s.phase = .apply) : (doApply s).Inv := by
  have hpos := h.len_positive (by simp [hp, Phase.inEngine])
  have hpend := h.tblPend_eq_false (by simp [hp])
  have hk := h.k_last (by simp [hp])
  constructor <;> simp [doApply, hpos, hpend, hk, h.table_wf]

/-- ADVANCE goes to FINISH with LEN_R = 0, or back to SQUARE with LEN_R still positive (R125). -/
theorem doAdvance_inv {s : State} (h : s.Inv) (hp : s.phase = .advance) : (doAdvance s).Inv := by
  have hpos := h.len_positive (by simp [hp, Phase.inEngine])
  have hpend := h.tblPend_eq_false (by simp [hp])
  have hk := h.k_last (by simp [hp])
  cases hl : lenLast s.lenR
  case true =>
    have hdone := (lenLast_iff _).1 hl
    constructor <;> simp [doAdvance, hl, hdone, hpend, hk, h.table_wf, Phase.inEngine]
  case false =>
    have hpos' := lenNonPositive_lenShift hpos hl
    constructor <;> simp [doAdvance, hl, hpos', hpend, hk, h.table_wf]

theorem doFinish_inv {s : State} (h : s.Inv) (hp : s.phase = .finish) : (doFinish s).Inv := by
  have hpend := h.tblPend_eq_false (by simp [hp])
  constructor <;> simp [doFinish, hpend, h.table_wf, Phase.inEngine]

theorem doRelease_inv {s : State} (h : s.Inv) (hp : s.phase = .respond) : (doRelease s).Inv := by
  have hpend := h.tblPend_eq_false (by simp [hp])
  rcases doRelease_cases s with ⟨-, e⟩ | ⟨-, e⟩ <;> rw [e]
  · exact h
  · constructor <;> simp [hpend, h.table_wf, Phase.inEngine]

theorem blockTransition_inv {s : State} (h : s.Inv) : (blockTransition s).Inv := by
  rw [blockTransition_eq]
  rcases transitionWith_cases (seedWith s.tblRspData s.wordDrawn) s with
    ⟨hp, e⟩ | ⟨hp, e⟩ | ⟨hp, e⟩ | ⟨hp, e⟩ | ⟨hp, e⟩ | ⟨hp, e⟩ | ⟨hp, e⟩ <;> rw [e]
  · exact doAccept_inv h hp
  · exact seedWith_inv _ _ h hp
  · exact doSquare_inv h hp
  · exact doApply_inv h hp
  · exact doAdvance_inv h hp
  · exact doFinish_inv h hp
  · exact doRelease_inv h hp

/-! ### COMBINE and the agents' moves -/

theorem runFromAccept_inv {s : State} (unsettled : Bool) (h : s.Inv) (hp : s.phase = .idle) :
    (runFromAccept unsettled s).Inv := by
  have haccept : (doAccept { s with agenda := [] }).Inv :=
    doAccept_inv (h.of_eq h.table_wf rfl rfl rfl rfl) hp
  exact runOperation_keeps (P := State.Inv) (fun _ => blockTransition_inv) _ _
    (haccept.of_eq haccept.table_wf rfl rfl rfl rfl)

theorem offer_inv {s : State} (r : Request) (h : s.Inv) : (s.offer r).Inv := h.of_eq h.table_wf rfl rfl rfl rfl

/-- COMBINE offers its request and, from IDLE, runs block transitions only. -/
theorem doCombine_inv {s : State} (r : Request) (h : s.Inv) : (doCombine r s).Inv := by
  unfold doCombine
  split
  case isTrue hready =>
    have hidle : (s.offer r).phase = .idle := by simp_all [State.reqReady]
    have hrun (unsettled : Bool) := runFromAccept_inv unsettled (offer_inv r h) hidle
    dsimp only
    split
    · exact (hrun true).of_eq (hrun true).table_wf rfl rfl rfl rfl
    · exact (hrun false).of_eq (hrun false).table_wf rfl rfl rfl rfl
  case isFalse => exact offer_inv r h

theorem drive_inv {s : State} (m : Move) (h : s.Inv) : (s.drive m).Inv :=
  h.of_eq (by simp [h.table_wf]) (by simp) (by simp) (by simp) (by simp)

theorem writeTable_inv {s : State} (i : TableIndex) (v : Word) (h : s.Inv) : (writeTable s i v).Inv :=
  h.of_eq (tableWrite_wf i v h.table_wf) rfl rfl rfl rfl

theorem disturb_inv {s : State} (h : s.Inv) : (disturb s).Inv := h.of_eq h.table_wf rfl rfl rfl rfl

theorem blockTurn_inv {s t : State} (h : s.Inv) (hturn : blockTurn s = .next t) : t.Inv := by
  rw [blockTurn_eq] at hturn
  cases hturn
  split
  · exact doReset_inv h
  · exact blockTransition_inv h

theorem moveTurn_inv {s t : State} (m : Move) (h : s.Inv) (hmove : moveTurn m s = .next t) : t.Inv := by
  cases m
  case block => exact blockTurn_inv h hmove
  case command => cases hmove; exact doCombine_inv _ h
  case offer r => cases hmove; exact offer_inv r h
  case setTable i v => cases hmove; exact writeTable_inv i v h
  case disturbTable => cases hmove; exact disturb_inv h
  all_goals
    cases hmove
    exact drive_inv _ h

/-- Settles O40: each block transition keeps the invariant, so COMBINE does, and no agent's move writes what it reads
but the TABLE, whose writes keep the canonical form. -/
theorem stepKeepsInvariant : Obligations.StepKeepsInvariant := by
  intro s t h hstep
  unfold step turn at hstep
  split at hstep
  · exact blockTurn_inv h hstep
  next m rest _ => exact moveTurn_inv m (h.of_eq (t := { s with agenda := rest }) h.table_wf rfl rfl rfl rfl) hstep

/-- Settles O39: IDLE is no phase the clauses speak of, nothing is outstanding and the empty storage is canonical. -/
theorem resetMeetsInvariant : Obligations.ResetMeetsInvariant where
  table_wf := rfl
  len_positive := nofun
  len_done := nofun
  pend_in_seed := nofun
  k_last := nofun

/-- Settles O11: the outputs follow from PHASE = IDLE and `rst` = 0 by R72 to R75. -/
theorem resetState : Obligations.ResetState :=
  have hidle : State.reset.phase = .idle := rfl
  have hrst : State.reset.rst = false := rfl
  ⟨hidle, rfl, hrst, by simp [State.reqReady, hidle, hrst], by simp [State.rspValid, hidle],
    by simp [State.busy, hidle], by simp [State.tblReqValid, hidle]⟩

end Sys2Proof.Machine
end

section
/-! PROOF. What COMBINE answers when both agents respond at once (R152), and that this depends on the request and the
four entries only. -/

namespace Sys2Proof.Machine

/-! ### Running block transitions -/

theorem runOperation_of_busy {s : State} (n : Nat) (h : (blockTransition s).phase ≠ .idle) :
    runOperation (n + 1) s = runOperation n (blockTransition s) := if_neg h

theorem runOperation_of_idle {s : State} (n : Nat) (h : (blockTransition s).phase = .idle) :
    runOperation (n + 1) s = blockTransition s := if_pos h

theorem blockTransition_square {s : State} (hp : s.phase = .square) : blockTransition s = doSquare s := by
  simp [blockTransition, transitionWith, hp]

theorem blockTransition_apply {s : State} (hp : s.phase = .apply) : blockTransition s = doApply s := by
  simp [blockTransition, transitionWith, hp]

theorem blockTransition_advance {s : State} (hp : s.phase = .advance) : blockTransition s = doAdvance s := by
  simp [blockTransition, transitionWith, hp]

theorem blockTransition_finish {s : State} (hp : s.phase = .finish) : blockTransition s = doFinish s := by
  simp [blockTransition, transitionWith, hp]

theorem blockTransition_respond {s : State} (hp : s.phase = .respond) (htakes : s.rspReady = true) :
    blockTransition s = { s with phase := .idle, responses := s.responses ++ [s.res] } := by
  simp [blockTransition, transitionWith, hp, doRelease, htakes]

/-- From RESPOND with a ready host, the operation ends with RES handed over (R155). -/
theorem runOperation_respond {s : State} (n : Nat) (hp : s.phase = .respond) (htakes : s.rspReady = true) :
    runOperation (n + 1) s = { s with phase := .idle, responses := s.responses ++ [s.res] } := by
  have hrelease := blockTransition_respond hp htakes
  rw [runOperation_of_idle n (by rw [hrelease]), hrelease]

/-- From FINISH with a ready host, two transitions end the operation with ACC ⊕ CRC2_R (R153, R155). -/
theorem runOperation_finish {s : State} (n : Nat) (hp : s.phase = .finish) (htakes : s.rspReady = true) :
    runOperation (n + 2) s =
      { s with phase := .idle, res := s.acc ^^^ s.crc2R, responses := s.responses ++ [s.acc ^^^ s.crc2R] } := by
  have hfinish := blockTransition_finish hp
  rw [runOperation_of_busy (n + 1) (by simp [hfinish, doFinish]), hfinish,
    runOperation_respond (s := doFinish s) n rfl htakes]
  rfl

/-! ### The loop of SQUARE, APPLY and ADVANCE -/

/-- One iteration of the loop (R123 to R125). -/
def loopIteration (s : State) : State := doAdvance (doApply (doSquare s))

theorem runOperation_square {s : State} (n : Nat) (hp : s.phase = .square) :
    runOperation (n + 3) s = runOperation n (loopIteration s) := by
  have hsquare := blockTransition_square hp
  have happly : blockTransition (doSquare s) = doApply (doSquare s) := blockTransition_apply rfl
  have hadvance : blockTransition (doApply (doSquare s)) = loopIteration s := blockTransition_advance rfl
  have hbusy : (loopIteration s).phase ≠ .idle := by
    cases hl : lenLast s.lenR <;> simp [loopIteration, doAdvance, doApply, doSquare, hl]
  rw [runOperation_of_busy (n + 2) (by simp [hsquare, doSquare]), hsquare,
    runOperation_of_busy (n + 1) (by simp [happly, doApply]), happly,
    runOperation_of_busy n (by rwa [hadvance]), hadvance]

/-- ADVANCE puts the square just computed in the role ODD (R125, R240). -/
theorem odd_loopIteration (s : State) : (loopIteration s).odd = gf2Square s.odd := by
  cases h : s.sel <;> simp [loopIteration, doAdvance, doApply, doSquare, State.odd, State.setEven, h]

theorem acc_loopIteration (s : State) :
    (loopIteration s).acc = if lenBit0 s.lenR then gf2Mult (gf2Square s.odd) s.acc else s.acc := by
  have heven : (doSquare s).even = gf2Square s.odd := State.even_setEven s _
  rw [← heven]; rfl

/-- From SQUARE with LEN_R a positive number of at most `n` bits, `n` iterations, FINISH and RELEASE are enough, and the
answer is that of the loop of R130, with any fuel from `n` on. -/
theorem runOperation_loop {n m : Nat} {s : State} (hp : s.phase = .square) (htakes : s.rspReady = true)
    (hpos : 0 < s.lenR.toNat) (hbits : s.lenR.toNat < 2 ^ n) (hm : n ≤ m) :
    ∃ sel acc lenR matA matB,
      runOperation (3 * n + 2) s =
        { s with
          phase := .idle, sel := sel, acc := acc, lenR := lenR, matA := matA, matB := matB,
          res := engineLoop m s.odd s.acc s.lenR ^^^ s.crc2R,
          responses := s.responses ++ [engineLoop m s.odd s.acc s.lenR ^^^ s.crc2R] } := by
  induction n generalizing m s with
  | zero => omega
  | succ n ih =>
    obtain ⟨m, rfl⟩ : ∃ m', m = m' + 1 := ⟨m - 1, by omega⟩
    have hloop : runOperation (3 * (n + 1) + 2) s = runOperation (3 * n + 2) (loopIteration s) :=
      runOperation_square (3 * n + 2) hp
    have hengine : engineLoop (m + 1) s.odd s.acc s.lenR =
        if lenLast s.lenR then (loopIteration s).acc
        else engineLoop m (loopIteration s).odd (loopIteration s).acc (lenShift s.lenR) := by
      rw [odd_loopIteration, acc_loopIteration]; rfl
    rw [hloop, hengine]
    cases hl : lenLast s.lenR
    case true =>
      have hfinish : (loopIteration s).phase = .finish := by
        simp [loopIteration, doAdvance, doApply, doSquare, hl]
      exact ⟨_, _, _, _, _, runOperation_finish (3 * n) hfinish htakes⟩
    case false =>
      have hsquare : (loopIteration s).phase = .square := by
        simp [loopIteration, doAdvance, doApply, doSquare, hl]
      have hlen : (loopIteration s).lenR = lenShift s.lenR := rfl
      have hne : (lenShift s.lenR).toNat ≠ 0 := fun h0 =>
        Bool.eq_false_iff.1 hl ((lenLast_iff _).2 (BitVec.eq_of_toNat_eq h0))
      have hhalf := toNat_lenShift s.lenR
      obtain ⟨sel, acc, lenR, matA, matB, e⟩ :=
        ih (m := m) hsquare htakes (by rw [hlen]; omega) (by rw [hlen]; omega) (by omega)
      exact ⟨sel, acc, lenR, matA, matB, e⟩

/-! ### The four SEED transitions -/

/-- SEED of a settled operation whose table agent responds at once: no read outstanding, no change of an entry recorded
or to come. -/
structure State.SeedsSettled (s : State) : Prop where
  phase : s.phase = .seed
  tblPend : s.tblPend = false
  prompt : s.TablePrompt
  tblDirty : s.tblDirty = false
  agenda : s.agenda = []

/-- Then SEED is one atomic read of the entry that K names (R120). -/
theorem blockTransition_seed {s : State} (h : s.SeedsSettled) :
    blockTransition s = s.issueRead.takeWord (tableRead s.table (seedIndex s.k)) false := by
  have hdrawn : s.wordDrawn = false := by simp [State.wordDrawn, h.tblDirty, h.agenda]
  simp [blockTransition, transitionWith, h.phase, doSeed, seedWith, State.tblRspData, hdrawn, h.tblPend,
    h.prompt.accepts, h.prompt.answers]

/-- The state after a SEED transition before the last: the entry that K names in its seed row of ODD. -/
def State.seedRowTaken (s : State) : State :=
  { s.setOdd (s.odd.setRow (seedRow s.k) (tableRead s.table (seedIndex s.k))) with
    k := s.k + 1
    tblPend := false
    reads := s.reads ++ [seedIndex s.k] }

theorem odd_seedRowTaken (s : State) :
    s.seedRowTaken.odd = s.odd.setRow (seedRow s.k) (tableRead s.table (seedIndex s.k)) := State.odd_setOdd s _

theorem reads_seedRowTaken (s : State) : s.seedRowTaken.reads = s.reads ++ [seedIndex s.k] := rfl

/-- A matrix written into ODD leaves nothing of the seed row taken before it. -/
theorem setOdd_seedRowTaken (s : State) (m : BitMatrix) :
    s.seedRowTaken.setOdd m =
      { s.setOdd m with k := s.k + 1, tblPend := false, reads := s.reads ++ [seedIndex s.k] } := by
  cases h : s.sel <;> simp [State.seedRowTaken, State.setOdd, h]

theorem seedRowTaken_seedsSettled {s : State} (h : s.SeedsSettled) : s.seedRowTaken.SeedsSettled :=
  ⟨h.phase, rfl, ⟨h.prompt.accepts, h.prompt.answers⟩, h.tblDirty, h.agenda⟩

theorem runOperation_seed_lt {s : State} (n : Nat) (h : s.SeedsSettled) (hk : s.k.toNat < 3) :
    runOperation (n + 1) s = runOperation n s.seedRowTaken := by
  have hseed : blockTransition s = s.seedRowTaken :=
    (blockTransition_seed h).trans (takeWord_of_lt (s := s.issueRead) _ _ hk)
  rw [runOperation_of_busy n (by simp [hseed, (seedRowTaken_seedsSettled h).phase]), hseed]

/-- The last SEED transition writes the fixed rows too (R120). -/
theorem runOperation_seed_last {s : State} (n : Nat) (h : s.SeedsSettled) (hk : ¬ s.k.toNat < 3) :
    runOperation (n + 1) s =
      runOperation n
        { s.setOdd (loadFixedRows (s.odd.setRow (seedRow s.k) (tableRead s.table (seedIndex s.k)))) with
          phase := .square
          tblPend := false
          reads := s.reads ++ [seedIndex s.k] } := by
  have hseed := (blockTransition_seed h).trans (takeWord_of_last (s := s.issueRead) _ _ hk)
  rw [runOperation_of_busy n (by simp [hseed]), hseed]
  rfl

theorem row_setRow (m : BitMatrix) (i j : Fin 32) (v : Word) : (m.setRow j v).row i = if i = j then v else m.row i := by
  split
  case isTrue h => rw [h, BitMatrix.row_setRow_same]
  case isFalse h => exact BitMatrix.row_setRow_other m v h

/-- Four seed rows and the fixed rows are the initial odd matrix, whatever the buffer held (R36, R121). -/
theorem loadFixedRows_seeded (m : BitMatrix) (w0 w1 w2 w3 : Word) :
    loadFixedRows ((((m.setRow 0 w0).setRow 1 w1).setRow 2 w2).setRow 3 w3) = initialOdd w0 w1 w2 w3 := by
  apply BitMatrix.ext_rows
  intro j
  by_cases hj : j.val < 4
  case pos =>
    obtain rfl | rfl | rfl | rfl : j = 0 ∨ j = 1 ∨ j = 2 ∨ j = 3 := by omega
    all_goals simp [loadFixedRows, initialOdd, row_setRow]
  case neg =>
    obtain ⟨h0, h1, h2, h3⟩ : j.val ≠ 0 ∧ j.val ≠ 1 ∧ j.val ≠ 2 ∧ j.val ≠ 3 := by omega
    simp only [loadFixedRows, initialOdd, BitMatrix.row_ofRows, if_neg, hj, h0, h1, h2, h3, not_false_eq_true]

/-- The initial odd matrix of the four entries that the block reads (R52, R121). -/
def initialOddOf (table : Memory) : BitMatrix :=
  initialOdd (tableRead table 16) (tableRead table 32) (tableRead table 64) (tableRead table 128)

/-- The four SEED transitions of a settled operation put the initial odd matrix in ODD and go to SQUARE (R120, R121). -/
theorem runOperation_seed {s : State} (n : Nat) (h : s.SeedsSettled) (hk : s.k = 0) :
    runOperation (n + 4) s =
      runOperation n
        { s.setOdd (initialOddOf s.table) with
          phase := .square, k := 3, tblPend := false, reads := s.reads ++ [16, 32, 64, 128] } := by
  have h1 := seedRowTaken_seedsSettled h
  have h2 := seedRowTaken_seedsSettled h1
  have h3 := seedRowTaken_seedsSettled h2
  have hk1 : s.seedRowTaken.k = 1 := by simp [State.seedRowTaken, hk]
  have hk2 : s.seedRowTaken.seedRowTaken.k = 2 := congrArg (· + 1) hk1
  have hk3 : s.seedRowTaken.seedRowTaken.seedRowTaken.k = 3 := congrArg (· + 1) hk2
  have hodd : loadFixedRows (s.seedRowTaken.seedRowTaken.seedRowTaken.odd.setRow (seedRow 3)
      (tableRead s.table (seedIndex 3))) = initialOddOf s.table := by
    simp only [odd_seedRowTaken, hk, hk1, hk2]
    exact loadFixedRows_seeded ..
  have hreads : s.seedRowTaken.seedRowTaken.seedRowTaken.reads ++ [seedIndex 3] = s.reads ++ [16, 32, 64, 128] := by
    simp only [reads_seedRowTaken, hk, hk1, hk2, List.append_assoc]
    rfl
  have htable : s.seedRowTaken.seedRowTaken.seedRowTaken.table = s.table := rfl
  rw [runOperation_seed_lt (n + 3) h (by simp [hk]), runOperation_seed_lt (n + 2) h1 (by simp [hk1]),
    runOperation_seed_lt (n + 1) h2 (by simp [hk2]), runOperation_seed_last n h3 (by simp [hk3]), hk3, htable, hodd,
    hreads]
  simp only [setOdd_seedRowTaken, hk2]
  rfl

/-! ### COMBINE -/

/-- The reference engine is the loop, with fuel for 64 iterations, from the initial odd matrix (R130). -/
theorem combineValue_of_pos {table : Memory} {r : Request} (hpos : lenNonPositive r.length = false) :
    combineValue (tableRead table) r.crc1 r.crc2 r.length =
      engineLoop 64 (initialOddOf table) r.crc1 r.length ^^^ r.crc2 := by
  simp [combineValue, hpos, engine, initialOddOf, Config.lenWidth]

/-- The state after ACCEPT of the only offered request, as COMBINE runs it: with no other agent to move (R150, R151). -/
def State.accepted (s : State) (r : Request) : State :=
  { s with
    phase := if lenNonPositive r.length then .respond else .seed
    k := 0
    tblPend := false
    sel := false
    acc := r.crc1
    crc2R := r.crc2
    lenR := r.length
    res := if lenNonPositive r.length then r.crc1 else s.res
    reqs := []
    tblDirty := false
    agenda := [] }

theorem runFromAccept_offer {s : State} (r : Request) (hpend : s.tblPend = false) (hreqs : s.reqs = []) :
    runFromAccept false (s.offer r) = runOperation 195 (s.accepted r) := by
  simp [runFromAccept, doAccept, State.offer, State.accepted, hpend, hreqs, Config.maxTransitions, Config.lenWidth]

/-- From a state that can accept and with responsive agents, the operation of the one offered request ends in IDLE with
the value of R152 as its result and as its one response, having read the four entries or, on the shortcut, none; the
TABLE, the wires and the draws are left alone. -/
theorem runFromAccept_responsive {s : State} (r : Request) (hready : s.Ready) (hreqs : s.reqs = [])
    (hresp : s.Responsive) :
    ∃ k sel acc lenR matA matB,
      runFromAccept false (s.offer r) =
        { s with
          phase := .idle, k := k, tblPend := false, sel := sel, acc := acc, crc2R := r.crc2, lenR := lenR,
          matA := matA, matB := matB, reqs := [], tblDirty := false, agenda := [],
          reads := s.reads ++ (if lenNonPositive r.length then [] else [16, 32, 64, 128]),
          res := combineValue (tableRead s.table) r.crc1 r.crc2 r.length,
          responses := s.responses ++ [combineValue (tableRead s.table) r.crc1 r.crc2 r.length] } := by
  obtain ⟨haccepts, hanswers, htakes⟩ := hresp
  rw [runFromAccept_offer r hready.pend hreqs]
  cases hl : lenNonPositive r.length
  case true =>
    have hvalue : combineValue (tableRead s.table) r.crc1 r.crc2 r.length = r.crc1 := by simp [combineValue, hl]
    have hrespond : (s.accepted r).phase = .respond := by simp [State.accepted, hl]
    have hres : (s.accepted r).res = r.crc1 := by simp [State.accepted, hl]
    rw [hvalue, runOperation_respond 194 hrespond htakes, hres, if_pos rfl, List.append_nil]
    exact ⟨_, _, _, _, _, _, rfl⟩
  case false =>
    obtain ⟨hpos, hbits⟩ := (lenNonPositive_eq_false_iff _).1 hl
    have hseeds : (s.accepted r).SeedsSettled :=
      ⟨by simp [State.accepted, hl], rfl, ⟨haccepts, hanswers⟩, rfl, rfl⟩
    rw [combineValue_of_pos hl, runOperation_seed 191 hseeds rfl]
    obtain ⟨sel, acc, lenR, matA, matB, e⟩ :=
      runOperation_loop (n := 63) (m := 64)
        (s := { (s.accepted r).setOdd (initialOddOf s.table) with
          phase := .square, k := 3, tblPend := false, reads := s.reads ++ [16, 32, 64, 128] })
        rfl htakes hpos hbits (by omega)
    exact ⟨_, _, _, _, _, _, e⟩

/-- Such a COMBINE is that operation, whatever moves the agenda holds: nothing is in flight after it. -/
theorem doCombine_responsive {s : State} (r : Request) (hready : s.Ready) (hreqs : s.reqs = [])
    (hresp : s.Responsive) : doCombine r s = { runFromAccept false (s.offer r) with agenda := s.agenda } := by
  have hcan : (s.reqReady && s.reqs.isEmpty) = true := by simp [State.reqReady, hready.idle, hready.rst, hreqs]
  obtain ⟨_, _, _, _, _, _, e⟩ := runFromAccept_responsive r hready hreqs hresp
  have hidle : (runFromAccept false (s.offer r)).phase = .idle := by rw [e]
  simp only [doCombine, hcan, changesInFlight_idle s.agenda hidle, if_true, Bool.false_eq_true, if_false]

theorem res_doCombine {s : State} (r : Request) (hready : s.Ready) (hreqs : s.reqs = []) (hresp : s.Responsive) :
    (doCombine r s).res = combineValue (tableRead s.table) r.crc1 r.crc2 r.length := by
  obtain ⟨_, _, _, _, _, _, e⟩ := runFromAccept_responsive r hready hreqs hresp
  rw [doCombine_responsive r hready hreqs hresp, e]

/-- The value of R152 is a function of the request and of four entries (R52). -/
theorem combineValue_congr {tab tab' : TableIndex → Word}
    (h : ∀ i, i = 16 ∨ i = 32 ∨ i = 64 ∨ i = 128 → tab i = tab' i) (crc1 crc2 : Word) (length : Len) :
    combineValue tab crc1 crc2 length = combineValue tab' crc1 crc2 length := by
  simp [combineValue, h]

/-- Settles O48: each of the two results is the value of R152, and that reads the four entries only. -/
theorem resultIndependence : Obligations.ResultIndependence := by
  intro s s' crc1 crc2 length hready hready' hreqs hreqs' hresp hresp' hentries
  refine ⟨_, _, rfl, rfl, ?_⟩
  rw [res_doCombine _ hready hreqs hresp, res_doCombine _ hready' hreqs' hresp']
  exact combineValue_congr hentries crc1 crc2 length

end Sys2Proof.Machine
end

section
/-! PROOF. The TABLE: what a write of an entry leaves alone, and that no instruction writes one (R50, R51). -/

namespace Sys2Proof.Machine

/-! ### A table write as a step -/

/-- A byte that is none of an entry's four is left alone when the entry is written (R54). -/
theorem memRead_tableWrite_other (m : Memory) {i : TableIndex} {a : Nat} (v : Word)
    (h : ∀ lane, lane < 4 → a ≠ laneAddr i lane) : memRead (tableWrite m i v) a = memRead m a := by
  unfold tableWrite
  rw [memRead_memWrite_other _ _ (h 3 (by decide)), memRead_memWrite_other _ _ (h 2 (by decide)),
    memRead_memWrite_other _ _ (h 1 (by decide)), memRead_memWrite_other _ _ (h 0 (by decide))]

/-- The state with the move being made, if there is one, off the agenda. -/
def State.offAgenda (s : State) : State := { s with agenda := s.agenda.tail }

@[simp] theorem State.offAgenda_phase (s : State) : s.offAgenda.phase = s.phase := rfl
@[simp] theorem State.offAgenda_k (s : State) : s.offAgenda.k = s.k := rfl
@[simp] theorem State.offAgenda_tblPend (s : State) : s.offAgenda.tblPend = s.tblPend := rfl
@[simp] theorem State.offAgenda_rst (s : State) : s.offAgenda.rst = s.rst := rfl
@[simp] theorem State.offAgenda_tblReqReady (s : State) : s.offAgenda.tblReqReady = s.tblReqReady := rfl
@[simp] theorem State.offAgenda_tblAnswers (s : State) : s.offAgenda.tblAnswers = s.tblAnswers := rfl
@[simp] theorem State.offAgenda_table (s : State) : s.offAgenda.table = s.table := rfl
@[simp] theorem State.offAgenda_tblDirty (s : State) : s.offAgenda.tblDirty = s.tblDirty := rfl
@[simp] theorem State.offAgenda_agenda (s : State) : s.offAgenda.agenda = s.agenda.tail := rfl
@[simp] theorem State.offAgenda_reads (s : State) : s.offAgenda.reads = s.reads := rfl

theorem step_of_cons {s : State} {m : Move} {rest : List Move} (h : s.agenda = m :: rest) :
    step s = moveTurn m s.offAgenda := by
  simp [step, turn, State.offAgenda, h]

theorem step_setTable {s : State} {i : TableIndex} {v : Word} {rest : List Move}
    (h : s.agenda = .setTable i v :: rest) :
    step s = .next (writeTable s.offAgenda i v) := step_of_cons h

/-- Settles O8: the four lanes of the entry hold the word, every other byte is left alone, and the write keeps the
canonical form. -/
theorem tableWriteThenRead : Obligations.TableWriteThenRead := by
  intro s rest i v hagenda hwf
  refine ⟨_, step_setTable hagenda, fun j => ?_, fun a ha => memRead_tableWrite_other s.table v ha,
    tableWrite_wf i v hwf, by simp [writeTable, State.offAgenda, hagenda]⟩
  split
  case isTrue hji => rw [hji]; exact tableRead_tableWrite_same i v hwf
  case isFalse hji => exact tableRead_tableWrite_other s.table v hji

/-! ### What the instructions leave alone -/

/-- `t` holds the TABLE, the agents' wires but the requests, and the agenda of `s`. -/
structure SameSurroundings (s t : State) : Prop where
  table : t.table = s.table
  rst : t.rst = s.rst
  rspReady : t.rspReady = s.rspReady
  tblReqReady : t.tblReqReady = s.tblReqReady
  tblAnswers : t.tblAnswers = s.tblAnswers
  agenda : t.agenda = s.agenda

theorem doAccept_sameSurroundings (s : State) : SameSurroundings s (doAccept s) := by
  rcases hr : s.reqs with _ | ⟨r, rest⟩ <;> constructor <;> simp [doAccept, hr]

theorem doSeed_sameSurroundings (s : State) : SameSurroundings s (doSeed s) := by
  constructor <;> simp [doSeed]

theorem doRelease_sameSurroundings (s : State) : SameSurroundings s (doRelease s) := by
  rcases doRelease_cases s with ⟨-, e⟩ | ⟨-, e⟩ <;> rw [e] <;> constructor <;> rfl

theorem blockTransition_sameSurroundings {s t : State} (h : SameSurroundings s t) :
    SameSurroundings s (blockTransition t) := by
  obtain ⟨htable, hrst, hrspReady, htblReqReady, htblAnswers, hagenda⟩ := h
  rw [blockTransition_eq]
  constructor <;> simp [*]

/-- An operation that runs with no other agent to move. -/
theorem runFromAccept_sameSurroundings (unsettled : Bool) (s : State) :
    SameSurroundings { s with agenda := [] } (runFromAccept unsettled s) := by
  unfold runFromAccept
  obtain ⟨htable, hrst, hrspReady, htblReqReady, htblAnswers, hagenda⟩ :=
    doAccept_sameSurroundings { s with agenda := [] }
  exact runOperation_keeps (P := SameSurroundings _) (fun _ => blockTransition_sameSurroundings) _ _
    ⟨htable, hrst, hrspReady, htblReqReady, htblAnswers, hagenda⟩

theorem offer_sameSurroundings (s : State) (r : Request) : SameSurroundings s (s.offer r) := by
  constructor <;> rfl

/-- COMBINE sets the agenda aside for its operation and puts it back. -/
theorem doCombine_sameSurroundings (r : Request) (s : State) : SameSurroundings s (doCombine r s) := by
  unfold doCombine
  split
  case isTrue =>
    have hrun (unsettled : Bool) :
        SameSurroundings s { runFromAccept unsettled (s.offer r) with agenda := s.agenda } := by
      obtain ⟨htable, hrst, hrspReady, htblReqReady, htblAnswers, -⟩ :=
        runFromAccept_sameSurroundings unsettled (s.offer r)
      exact ⟨htable, hrst, hrspReady, htblReqReady, htblAnswers, rfl⟩
    dsimp only
    split
    · exact hrun true
    · exact hrun false
  case isFalse => exact offer_sameSurroundings s r

theorem exec_sameSurroundings {i : Instr} {s t : State} (h : exec i s = .next t) : SameSurroundings s t := by
  cases i <;> cases h
  case combine => exact doCombine_sameSurroundings _ s
  case accept => exact doAccept_sameSurroundings s
  case seed => exact doSeed_sameSurroundings s
  case square => constructor <;> rfl
  case apply => constructor <;> rfl
  case advance => constructor <;> rfl
  case finish => constructor <;> rfl
  case release => exact doRelease_sameSurroundings s

/-- Settles O37: each transition leaves them alone, and COMBINE is a run of transitions or an offered request. -/
theorem instructionsKeepTable : Obligations.InstructionsKeepTable := by
  intro i s t h
  obtain ⟨htable, hrst, hrspReady, htblReqReady, htblAnswers, hagenda⟩ := exec_sameSurroundings h
  exact ⟨fun _ => by rw [htable], htable, hrst, hrspReady, htblReqReady, htblAnswers, hagenda⟩

end Sys2Proof.Machine
end

section
/-! PROOF. Which operations are unsettled, and that none becomes so or ceases to be so while it is in flight (R60,
R61). -/

namespace Sys2Proof.Machine

/-! ### What unsettles an operation -/

theorem changesReadEntry_setTable_iff (table : Memory) (i : TableIndex) (v : Word) :
    changesReadEntry table (.setTable i v) = true ↔
      (i = 16 ∨ i = 32 ∨ i = 64 ∨ i = 128) ∧ tableRead table i ≠ v := by
  simp [changesReadEntry, isSeedIndex, or_assoc]

theorem tblDirty_writeTable_iff (s : State) (i : TableIndex) (v : Word) :
    (writeTable s i v).tblDirty = true ↔ s.tblDirty = true ∨
      (s.phase ≠ .idle ∧ (i = 16 ∨ i = 32 ∨ i = 64 ∨ i = 128) ∧ tableRead s.table i ≠ v) := by
  simp [writeTable, changesReadEntry_setTable_iff]

/-- An operation in flight is unsettled by a change recorded, by the next move, or by one after it. -/
theorem unsettled_of_cons {s : State} {m : Move} {rest : List Move} (hp : s.phase ≠ .idle)
    (h : s.agenda = m :: rest) :
    s.unsettled = (s.tblDirty || (changesReadEntry s.table m ||
      changesInFlight rest (if m = .block then courseTurn s else s.drive m))) := by
  cases hm : changesReadEntry s.table m <;> simp [State.unsettled, changesInFlight, h, hp, hm]

theorem unsettled_of_change {s : State} {m : Move} {rest : List Move} (hp : s.phase ≠ .idle)
    (h : s.agenda = m :: rest) (hm : changesReadEntry s.table m = true) : s.unsettled = true := by
  rw [unsettled_of_cons hp h, hm, Bool.true_or, Bool.or_true]

/-- Settles O9: the flag is what `writeTable` records, a change that is next comes in flight, and without table moves
none comes. -/
theorem tableChangeInFlight : Obligations.TableChangeInFlight := by
  refine ⟨fun s rest i v hagenda =>
      ⟨⟨_, step_setTable hagenda, tblDirty_writeTable_iff s.offAgenda i v⟩, fun hp hi hv => ?_⟩,
    fun s rest hagenda hp => unsettled_of_change hp hagenda rfl, fun s hclean hquiet => ⟨?_, ?_⟩⟩
  · exact unsettled_of_change hp hagenda ((changesReadEntry_setTable_iff _ _ _).2 ⟨hi, hv⟩)
  · rw [State.unsettled, hclean, changesInFlight_quiet hquiet, Bool.or_false]
  · rw [State.wordDrawn, hclean, changesInFlight_quiet hquiet, Bool.or_false]

/-! ### Settledness over one move -/

/-- The course does not depend on the moves to come. -/
theorem sameCourse_offAgenda (s : State) : SameCourse s s.offAgenda := by constructor <;> rfl

theorem courseTurn_of_running {s : State} (hr : s.rst = false) :
    courseTurn s = transitionWith (seedWith 0 false) s := by
  simp [courseTurn, hr]

/-- A block transition takes the course that the look-ahead follows, whatever word it reads. -/
theorem courseTurn_sameCourse_blockTransition {s : State} (hp : s.phase ≠ .idle) (hr : s.rst = false) :
    SameCourse (courseTurn s) (blockTransition s.offAgenda) := by
  rw [courseTurn_of_running hr, blockTransition_eq]
  exact transitionWith_sameCourse _ _ _ _ hp (sameCourse_offAgenda s)

/-- It is the block's turn: no move of another agent comes first. -/
def State.BlockMoves (s : State) : Prop := s.agenda = [] ∨ ∃ rest, s.agenda = .block :: rest

theorem step_of_blockMoves {s : State} (h : s.BlockMoves) : step s = blockTurn s.offAgenda := by
  rcases h with h | ⟨rest, h⟩
  case inl =>
    have hsame : s.offAgenda = s := by simp only [State.offAgenda, h, List.tail_nil]; rw [← h]
    rw [hsame, step, turn, h]
  case inr => exact step_of_cons h

/-- Whether an operation whose next move is the block's is unsettled, seen from after that move. -/
theorem unsettled_of_blockMoves {s : State} (h : s.BlockMoves) (hp : s.phase ≠ .idle) :
    s.unsettled = (s.tblDirty || changesInFlight s.agenda.tail (courseTurn s)) := by
  rcases h with h | ⟨rest, h⟩
  case inl => simp [State.unsettled, h]
  case inr => simp [unsettled_of_cons hp h, changesReadEntry, h]

/-- A transition of an operation in flight leaves it as unsettled as it was. -/
theorem unsettled_blockTransition {s : State} (h : s.BlockMoves) (hp : s.phase ≠ .idle) (hr : s.rst = false) :
    (blockTransition s.offAgenda).unsettled = s.unsettled := by
  have hdirty : (blockTransition s.offAgenda).tblDirty = s.tblDirty := by
    rw [blockTransition_eq]; exact transitionWith_tblDirty _ _ hp
  have hagenda : (blockTransition s.offAgenda).agenda = s.agenda.tail := by simp [blockTransition_eq]
  have htable : (courseTurn s).table = (blockTransition s.offAgenda).table := by
    simp [courseTurn_of_running hr, blockTransition_eq]
  have hsees : changesInFlight s.agenda.tail (courseTurn s) =
      changesInFlight s.agenda.tail (blockTransition s.offAgenda) :=
    changesInFlight_congr _ (courseTurn_sameCourse_blockTransition hp hr) fun m => by rw [htable]
  rw [unsettled_of_blockMoves h hp, hsees, State.unsettled, hdirty, hagenda]

/-- So does a move of another agent that changes no read entry and steers the course as its wires do. -/
theorem unsettled_of_drive {s t : State} {m : Move} {rest : List Move} (hp : s.phase ≠ .idle)
    (h : s.agenda = m :: rest) (hm : changesReadEntry s.table m = false) (hb : m ≠ .block)
    (hcourse : SameCourse (s.drive m) t) (hentries : ∀ m, changesReadEntry t.table m = changesReadEntry s.table m)
    (hdirty : t.tblDirty = s.tblDirty) (hagenda : t.agenda = s.agenda.tail) : t.unsettled = s.unsettled := by
  have hsees : changesInFlight rest (s.drive m) = changesInFlight rest t :=
    changesInFlight_congr rest hcourse fun m' => by rw [State.drive_table, hentries]
  rw [unsettled_of_cons hp h, hm, if_neg hb, hsees, State.unsettled, hdirty, hagenda, h, List.tail_cons,
    Bool.false_or]

/-- An input wire driven by its agent is such a move (R70). -/
theorem unsettled_drive {s : State} {m : Move} {rest : List Move} (hp : s.phase ≠ .idle) (h : s.agenda = m :: rest)
    (hm : changesReadEntry s.table m = false) (hb : m ≠ .block) : (s.offAgenda.drive m).unsettled = s.unsettled :=
  unsettled_of_drive hp h hm hb (drive_sameCourse m (sameCourse_offAgenda s)) (fun _ => by simp)
    (State.drive_tblDirty _ m) (State.drive_agenda _ m)

/-- COMBINE behind an operation in flight waits on the port (R206). -/
theorem doCombine_of_busy {s : State} (r : Request) (hp : s.phase ≠ .idle) : doCombine r s = s.offer r := by
  simp [doCombine, State.reqReady, hp]

/-- Settles O56: a turn of the block follows the course looked ahead; a move of another agent either is one of the
changes looked for, and then recorded, or leaves the others to come as they were. -/
theorem unsettledUntilResponse : Obligations.UnsettledUntilResponse := by
  intro s t hwf hp hstep htp
  have hblock (h : s.BlockMoves) : t.unsettled = s.unsettled := by
    rw [step_of_blockMoves h, blockTurn_eq] at hstep
    cases hstep
    cases hr : s.rst
    case true => exact absurd (by simp [hr]) htp
    case false => simpa [hr] using unsettled_blockTransition h hp hr
  rcases hagenda : s.agenda with _ | ⟨m, rest⟩
  case nil => exact hblock (.inl hagenda)
  case cons =>
    rw [step_of_cons hagenda] at hstep
    cases m
    case block => exact hblock (.inr ⟨rest, hagenda⟩)
    case command w =>
      cases hstep
      rw [doCombine_of_busy (s := s.offAgenda) _ hp]
      exact unsettled_of_drive hp hagenda rfl nofun (by constructor <;> rfl) (fun _ => rfl) rfl rfl
    case offer r =>
      cases hstep
      exact unsettled_of_drive hp hagenda rfl nofun (by constructor <;> rfl) (fun _ => rfl) rfl rfl
    case setTable i v =>
      cases hstep
      cases hm : changesReadEntry s.table (.setTable i v)
      case true =>
        have hrecorded : (writeTable s.offAgenda i v).tblDirty = true := by simp [writeTable, hp, hm]
        rw [unsettled_of_change hp hagenda hm, State.unsettled, hrecorded, Bool.true_or]
      case false =>
        exact unsettled_of_drive hp hagenda hm nofun (by constructor <;> rfl) (changesReadEntry_tableWrite hwf hm)
          (by simp [writeTable, hm]) rfl
    case disturbTable =>
      cases hstep
      have hrecorded : (disturb s.offAgenda).tblDirty = true := by simp [disturb, hp]
      rw [unsettled_of_change hp hagenda rfl, State.unsettled, hrecorded, Bool.true_or]
    all_goals
      cases hstep
      exact unsettled_drive hp hagenda rfl nofun

end Sys2Proof.Machine
end

section
/-! PROOF. The words that SEED takes in an unsettled operation (R61, R120, R121). -/

namespace Sys2Proof.Machine

/-! ### One word -/

/-- The table request that SEED makes, if its read is not outstanding already, in the record (R75). -/
def State.readRecorded (s : State) : State :=
  { s with reads := if s.tblPend then s.reads else s.reads ++ [seedIndex s.k] }

/-- With the request accepted, or accepted now, and answered, SEED takes the word (R75, R76, R120). -/
theorem seedWith_of_answered {s : State} (d : Word) (fresh : Bool) (hreq : s.tblPend = true ∨ s.tblReqReady = true)
    (hans : s.tblAnswers = true) : seedWith d fresh s = s.readRecorded.takeWord d fresh := by
  cases hp : s.tblPend
  case false =>
    have hready : s.tblReqReady = true := by simpa [hp] using hreq
    simp [seedWith, State.takeWord, State.issueRead, State.readRecorded, State.setOdd, State.odd, hp, hready, hans]
  case true =>
    have hsame : s.readRecorded = s := by rw [State.readRecorded, if_pos hp]
    simp [seedWith, hsame, hp, hans]

theorem doSeed_of_drawn {s : State} (h : s.wordDrawn = true) :
    doSeed s = seedWith (Config.tableDraw s.draws) true s := by
  simp [doSeed, State.tblRspData, h]

/-- Settles O26: the word SEED takes is the next free value, and where it goes depends on whether K is 3. -/
theorem seedDrawsInUnsettledOperation : Obligations.SeedDrawsInUnsettledOperation := by
  intro s hreq hans hdrawn
  have hseed : exec .seed s = .next (s.readRecorded.takeWord (Config.tableDraw s.draws) true) := by
    rw [← seedWith_of_answered _ _ hreq hans, ← doSeed_of_drawn hdrawn]; rfl
  rw [hseed]
  constructor
  · intro hk
    rw [takeWord_of_lt (s := s.readRecorded) _ _ (show s.k.toNat < 3 by bv_omega)]
    cases hsel : s.sel <;> simp [State.readRecorded, State.setOdd, State.odd, hsel, seedIndex]
  · intro hk
    rw [takeWord_of_last (s := s.readRecorded) _ _ (show ¬ s.k.toNat < 3 by simp [hk])]
    cases hsel : s.sel <;> simp [State.readRecorded, State.setOdd, State.odd, hsel, seedIndex, seedRow, hk]

/-! ### Four words -/

/-- SEED of an unsettled operation whose table agent responds at once, with no read outstanding, and `n` turns of the
block, one for each seed row left, or nothing before any other move. -/
structure State.SeedsUnsettled (n : Nat) (s : State) : Prop where
  phase : s.phase = .seed
  tblPend : s.tblPend = false
  rst : s.rst = false
  prompt : s.TablePrompt
  unsettled : s.unsettled = true
  rowsLeft : s.k.toNat + n = 4
  agenda : s.agenda = [] ∨ ∃ rest, s.agenda = List.replicate n .block ++ rest

theorem State.SeedsUnsettled.blockMoves {n : Nat} {s : State} (h : s.SeedsUnsettled (n + 1)) : s.BlockMoves :=
  h.agenda.imp_right fun ⟨rest, e⟩ => ⟨List.replicate n .block ++ rest, e.trans rfl⟩

theorem State.SeedsUnsettled.k_lt {n : Nat} {s : State} (h : s.SeedsUnsettled (n + 2)) : s.k.toNat < 3 := by
  have hleft := h.rowsLeft
  omega

/-- In a SEED turn the word is drawn exactly if the operation is unsettled. -/
theorem wordDrawn_offAgenda {s : State} (h : s.BlockMoves) (hp : s.phase = .seed) (hr : s.rst = false) :
    s.offAgenda.wordDrawn = s.unsettled := by
  have hidle : s.phase ≠ .idle := by simp [hp]
  have hseed : transitionWith (seedWith 0 false) s.offAgenda = seedWith 0 false s.offAgenda := by
    simp [transitionWith, hp]
  have hcourse : SameCourse (courseTurn s) (seedWith 0 false s.offAgenda) := by
    rw [courseTurn_of_running hr, ← hseed]
    exact transitionWith_sameCourse _ _ _ _ hidle (sameCourse_offAgenda s)
  have hsees : changesInFlight s.agenda.tail (courseTurn s) =
      changesInFlight s.agenda.tail (seedWith 0 false s.offAgenda) :=
    changesInFlight_congr _ hcourse fun m => by simp [courseTurn_of_running hr]
  rw [unsettled_of_blockMoves h hidle, hsees]
  rfl

/-- The state after a SEED turn that takes a free value. -/
def State.drawTaken (s : State) : State := s.offAgenda.readRecorded.takeWord (Config.tableDraw s.draws) true

theorem blockTransition_seedsUnsettled {n : Nat} {s : State} (h : s.SeedsUnsettled (n + 1)) :
    blockTransition s.offAgenda = s.drawTaken := by
  have hdrawn : s.offAgenda.wordDrawn = true := by rw [wordDrawn_offAgenda h.blockMoves h.phase h.rst, h.unsettled]
  have hseed : blockTransition s.offAgenda = doSeed s.offAgenda := by simp [blockTransition, transitionWith, h.phase]
  rw [hseed, doSeed_of_drawn hdrawn]
  exact seedWith_of_answered _ _ (.inr h.prompt.accepts) h.prompt.answers

theorem step_seedsUnsettled {n : Nat} {s : State} (h : s.SeedsUnsettled (n + 1)) : step s = .next s.drawTaken := by
  have hr : s.offAgenda.rst = false := h.rst
  rw [step_of_blockMoves h.blockMoves, blockTurn_eq, hr, ← blockTransition_seedsUnsettled h]
  rfl

theorem draws_drawTaken (s : State) : s.drawTaken.draws = s.draws + 1 := by
  by_cases hk : s.k.toNat < 3
  · rw [State.drawTaken, takeWord_of_lt (s := s.offAgenda.readRecorded) _ _ hk]; rfl
  · rw [State.drawTaken, takeWord_of_last (s := s.offAgenda.readRecorded) _ _ hk]; rfl

theorem reads_drawTaken {s : State} (h : s.tblPend = false) : s.drawTaken.reads = s.reads ++ [seedIndex s.k] := by
  simp [State.drawTaken, State.readRecorded, h]

/-- Before the last seed row, a SEED turn writes one row of ODD and goes on to the next (R120). -/
theorem drawTaken_of_lt {s : State} (hk : s.k.toNat < 3) :
    s.drawTaken.phase = s.phase ∧ s.drawTaken.k = s.k + 1 ∧
      s.drawTaken.odd = s.odd.setRow (seedRow s.k) (Config.tableDraw s.draws) := by
  rw [State.drawTaken, takeWord_of_lt (s := s.offAgenda.readRecorded) _ _ hk]
  exact ⟨rfl, rfl, State.odd_setOdd s.offAgenda.readRecorded _⟩

/-- At the last seed row it writes the fixed rows too, and goes to SQUARE (R120). -/
theorem drawTaken_of_last {s : State} (hk : ¬ s.k.toNat < 3) :
    s.drawTaken.phase = .square ∧
      s.drawTaken.odd = loadFixedRows (s.odd.setRow (seedRow s.k) (Config.tableDraw s.draws)) := by
  rw [State.drawTaken, takeWord_of_last (s := s.offAgenda.readRecorded) _ _ hk]
  exact ⟨rfl, State.odd_setOdd s.offAgenda.readRecorded _⟩

/-- The next SEED turn finds the operation still unsettled, so it draws too. -/
theorem drawTaken_seedsUnsettled {n : Nat} {s : State} (h : s.SeedsUnsettled (n + 2)) :
    s.drawTaken.SeedsUnsettled (n + 1) where
  phase := (drawTaken_of_lt h.k_lt).1.trans h.phase
  tblPend := by simp [State.drawTaken]
  rst := by simp [State.drawTaken, State.readRecorded, h.rst]
  prompt := ⟨by simp [State.drawTaken, State.readRecorded, h.prompt.accepts],
    by simp [State.drawTaken, State.readRecorded, h.prompt.answers]⟩
  unsettled := by
    rw [← blockTransition_seedsUnsettled h, unsettled_blockTransition h.blockMoves (by simp [h.phase]) h.rst,
      h.unsettled]
  rowsLeft := by
    have hlt := h.k_lt
    have hleft := h.rowsLeft
    obtain ⟨-, hnext, -⟩ := drawTaken_of_lt hlt
    bv_omega
  agenda := by
    have htail : s.drawTaken.agenda = s.agenda.tail := by simp [State.drawTaken, State.readRecorded]
    rw [htail]
    exact h.agenda.imp (fun e => by rw [e]; rfl) fun ⟨rest, e⟩ => ⟨rest, by rw [e]; rfl⟩

theorem run_succ_of_step {s t : State} (n : Nat) (h : step s = .next t) :
    Sys2Proof.core.run (n + 1) s = Sys2Proof.core.run n t := by
  have hcore : Sys2Proof.core.step s = .next t := h
  simp only [Host.Core.run, hcore]

/-- Settles O57: each of the four SEED turns draws and leaves the operation unsettled for the next. -/
theorem allFourWordsDrawn : Obligations.AllFourWordsDrawn := by
  intro s hp hk hpend hr hprompt hunsettled hagenda
  have h0 : s.SeedsUnsettled 4 := ⟨hp, hpend, hr, hprompt, hunsettled, by simp [hk], hagenda⟩
  have h1 := drawTaken_seedsUnsettled h0
  have h2 := drawTaken_seedsUnsettled h1
  have h3 := drawTaken_seedsUnsettled h2
  obtain ⟨-, hk1, hodd1⟩ := drawTaken_of_lt h0.k_lt
  obtain ⟨-, hk2, hodd2⟩ := drawTaken_of_lt h1.k_lt
  obtain ⟨-, hk3, hodd3⟩ := drawTaken_of_lt h2.k_lt
  obtain ⟨hsquare, hodd⟩ := drawTaken_of_last (s := s.drawTaken.drawTaken.drawTaken) (by simp [hk1, hk2, hk3, hk])
  refine ⟨s.drawTaken.drawTaken.drawTaken.drawTaken, ?_, hsquare, ?_, ?_, ?_⟩
  · rw [run_succ_of_step 3 (step_seedsUnsettled h0), run_succ_of_step 2 (step_seedsUnsettled h1),
      run_succ_of_step 1 (step_seedsUnsettled h2), run_succ_of_step 0 (step_seedsUnsettled h3)]
    rfl
  · simp only [draws_drawTaken]
  · rw [reads_drawTaken h3.tblPend, reads_drawTaken h2.tblPend, reads_drawTaken h1.tblPend, reads_drawTaken hpend,
      hk3, hk2, hk1, hk]
    simp [seedIndex]
  · rw [hodd, hodd3, hodd2, hodd1, hk3, hk2, hk1, hk]
    simp only [draws_drawTaken]
    exact loadFixedRows_seeded ..

end Sys2Proof.Machine
end

section
/-! PROOF. The two encodings and their decoders undo one another, over codes and over bytes (R77, R80, R81). -/

namespace Sys2Proof.Machine

/-! ### REQ words -/

@[simp] theorem reqCrc1_packReq (crc1 crc2 : Word) (length : Len) : reqCrc1 (packReq crc1 crc2 length) = crc1 :=
  BitVec.extractLsb'_append_eq_right

@[simp] theorem reqCrc2_packReq (crc1 crc2 : Word) (length : Len) : reqCrc2 (packReq crc1 crc2 length) = crc2 :=
  (BitVec.extractLsb'_append_eq_of_le (le_refl 32)).trans BitVec.extractLsb'_append_eq_right

@[simp] theorem reqLength_packReq (crc1 crc2 : Word) (length : Len) :
    reqLength (packReq crc1 crc2 length) = length :=
  (BitVec.extractLsb'_append_eq_of_le (show 32 ≤ 64 by decide)).trans BitVec.extractLsb'_append_eq_left

/-- The three fields of a REQ word tile it (R77). -/
theorem packReq_fields (w : BitVec 128) : packReq (reqCrc1 w) (reqCrc2 w) (reqLength w) = w :=
  calc reqLength w ++ reqCrc2 w ++ reqCrc1 w
    _ = w.extractLsb' 32 96 ++ reqCrc1 w := by
      exact congrArg (· ++ reqCrc1 w) (BitVec.extractLsb'_append_extractLsb'_eq_extractLsb' rfl)
    _ = w.extractLsb' 0 128 := BitVec.extractLsb'_append_extractLsb'_eq_extractLsb' rfl
    _ = w := BitVec.extractLsb'_eq_self

theorem decodeReq_packReq (crc1 crc2 : Word) (length : Len) :
    decodeReq (packReq crc1 crc2 length) = .combine crc1 crc2 length := by
  simp [decodeReq]

theorem encode_decodeReq (w : BitVec 128) : encode (decodeReq w) = .req w := congrArg Code.req (packReq_fields w)

/-! ### Codes -/

theorem decode_encode (i : Instr) : decode (encode i) = .ok i := by
  cases i
  case combine crc1 crc2 length => exact congrArg Except.ok (decodeReq_packReq crc1 crc2 length)
  all_goals rfl

/-- A PHASE code is the code of the transition it selects, or the reserved one (R80). -/
theorem decodePhase_cases (p : BitVec 3) :
    (∃ i, decodePhase p = .ok i ∧ encode i = .phase p) ∨ decodePhase p = .error .reservedPhase := by
  unfold decodePhase
  split_ifs
  case neg => exact .inr rfl
  all_goals
    subst_vars
    exact .inl ⟨_, rfl, rfl⟩

/-- Settles O2: a REQ word is packed from its fields, and each transition has the PHASE code that selects it. -/
theorem encodeDecodeRoundTrip : Obligations.EncodeDecodeRoundTrip := by
  intro c i h
  cases c
  case req w => cases h; exact encode_decodeReq w
  case phase p =>
    rw [decode] at h
    rcases decodePhase_cases p with ⟨j, hdecode, hencode⟩ | hreserved
    · obtain rfl : j = i := Except.ok.inj (hdecode.symm.trans h)
      exact hencode
    · rw [hreserved] at h; cases h

/-- Settles O3: unpacking undoes packing for any fields, and packing undoes unpacking for any word. -/
theorem everyReqWordIsCombine : Obligations.EveryReqWordIsCombine :=
  ⟨fun crc1 crc2 length => decode_encode (.combine crc1 crc2 length),
    fun w => ⟨reqCrc1 w, reqCrc2 w, reqLength w, rfl, (packReq_fields w).symm⟩⟩

/-- Settles O4: each of the seven codes is that of the transition it selects, and the eighth is reserved. -/
theorem phaseEncoding : Obligations.PhaseEncoding :=
  ⟨⟨rfl, rfl, rfl, rfl, rfl, rfl, rfl⟩, decode_encode .accept, decode_encode .seed, decode_encode .square,
    decode_encode .apply, decode_encode .advance, decode_encode .finish, decode_encode .release, rfl⟩

/-! ### Bytes -/

/-- Bit `k` of a number written in bytes is bit `k % 8` of byte `k / 8`. -/
theorem getLsbD_wordOfBytes (bytes : List Byte) {k : Nat} (hk : k < 128) :
    (wordOfBytes bytes).getLsbD k = (bytes.getD (k / 8) 0).getLsbD (k % 8) := by
  induction bytes generalizing k with
  | nil => simp [wordOfBytes]
  | cons b bytes ih =>
    have hcons : wordOfBytes (b :: bytes) = (wordOfBytes bytes <<< 8) ||| b.zeroExtend 128 := rfl
    rw [hcons, BitVec.getLsbD_or, BitVec.getLsbD_shiftLeft, BitVec.getLsbD_setWidth]
    by_cases hlow : k < 8
    case pos => simp [hk, hlow, Nat.div_eq_of_lt hlow, Nat.mod_eq_of_lt hlow]
    case neg =>
      have hbyte : k / 8 = (k - 8) / 8 + 1 := by omega
      have hbit : k % 8 = (k - 8) % 8 := by omega
      rw [ih (by omega), hbyte, hbit, List.getD_cons_succ, BitVec.getLsbD_of_ge b k (by omega)]
      simp [hk, hlow]

theorem getD_bytesOfWord {n i : Nat} (w : BitVec 128) (h : i < n) :
    (bytesOfWord n w).getD i 0 = w.extractLsb' (8 * i) 8 := by
  simp [bytesOfWord, h]

theorem length_bytesOfWord (n : Nat) (w : BitVec 128) : (bytesOfWord n w).length = n := by
  simp [bytesOfWord]

/-- A number that fits in `n` bytes is read back from them. -/
theorem wordOfBytes_bytesOfWord {n : Nat} {w : BitVec 128} (h : w.toNat < 2 ^ (8 * n)) :
    wordOfBytes (bytesOfWord n w) = w := by
  refine BitVec.eq_of_getLsbD_eq fun k hk => ?_
  rw [getLsbD_wordOfBytes _ hk]
  by_cases hbyte : k / 8 < n
  case pos =>
    rw [getD_bytesOfWord w hbyte, BitVec.getLsbD_extractLsb', Nat.div_add_mod]
    simp [Nat.mod_lt]
  case neg =>
    have hlen : (bytesOfWord n w).length ≤ k / 8 := by rw [length_bytesOfWord]; omega
    have hzero : w.getLsbD k = false :=
      Nat.testBit_lt_two_pow (h.trans_le (Nat.pow_le_pow_right (by decide) (by omega)))
    rw [List.getD_eq_default _ _ hlen, hzero, BitVec.ofNat_eq_ofNat, BitVec.getLsbD_zero]

/-- Sixteen bytes are a REQ word, and hold any. -/
theorem decodeBytes_bytesOfWord_req (w : BitVec 128) : decodeBytes (bytesOfWord 16 w) = decode (.req w) := by
  simp only [decodeBytes, length_bytesOfWord, wordOfBytes_bytesOfWord (n := 16) w.isLt]

/-- One byte is a PHASE code, and holds any (R80). -/
theorem decodeBytes_bytesOfWord_phase (p : BitVec 3) :
    decodeBytes (bytesOfWord 1 (p.zeroExtend 128)) = decode (.phase p) := by
  have hval : (p.zeroExtend 128).toNat = p.toNat := BitVec.toNat_setWidth_of_le (by decide)
  have hlt : (p.zeroExtend 128).toNat < 8 := hval ▸ p.isLt
  have hlow : (p.zeroExtend 128).extractLsb' 0 3 = p := by
    rw [← BitVec.setWidth_eq_extractLsb' (by decide), BitVec.setWidth_setWidth_of_le _ (by decide),
      BitVec.setWidth_eq]
  have hread := wordOfBytes_bytesOfWord (n := 1) (hlt.trans (by decide))
  simp only [decodeBytes, length_bytesOfWord, hread, if_pos hlt, hlow, decode]

theorem decodeBytes_encodeBytes (i : Instr) : decodeBytes (encodeBytes i) = decode (encode i) := by
  unfold encodeBytes
  cases encode i
  case req w => exact decodeBytes_bytesOfWord_req w
  case phase p => exact decodeBytes_bytesOfWord_phase p

/-- Settles O1: the bytes of an instruction decode as its code does, and that to the instruction. -/
theorem decodeEncodeRoundTrip : Obligations.DecodeEncodeRoundTrip := fun i _ =>
  ⟨decode_encode i, (decodeBytes_encodeBytes i).trans (decode_encode i)⟩

/-! ### Rows of the opcode table -/

/-- A row of 128 bits is a REQ word. -/
theorem decodeTableWord_packReq (crc1 crc2 : Word) (length : Len) :
    decodeTableWord 128 (packReq crc1 crc2 length).toNat = some (.combine crc1 crc2 length) := by
  have hbytes : tableBytes 128 (packReq crc1 crc2 length).toNat = bytesOfWord 16 (packReq crc1 crc2 length) :=
    congrArg (bytesOfWord 16) (BitVec.ofNat_toNat _ _ |>.trans (BitVec.setWidth_eq _))
  rw [decodeTableWord, hbytes, decodeBytes_bytesOfWord_req, decode, decodeReq_packReq]

/-- A row of 8 bits is the byte of a PHASE code. -/
theorem decodeTableWord_phase (p : BitVec 3) {i : Instr} (h : decode (.phase p) = .ok i) :
    decodeTableWord 8 p.toNat = some i := by
  have hbytes : tableBytes 8 p.toNat = bytesOfWord 1 (p.zeroExtend 128) := by
    have hsmall : p.toNat < 256 := p.isLt.trans (by decide)
    have hword : BitVec.ofNat 128 p.toNat = p.zeroExtend 128 := BitVec.ofNat_toNat 128 p
    simp only [tableBytes, hsmall, if_true, hword]
    rfl
  rw [decodeTableWord, hbytes, decodeBytes_bytesOfWord_phase, h]

/-- Settles O5: each REQ row is the concatenation of the fields written beside it. -/
theorem specWordsDecode : Obligations.SpecWordsDecode := by
  have hminus : (packReq 0x12345678 0x9ABCDEF0 (-1)).toNat = 0xFFFFFFFFFFFFFFFF9ABCDEF012345678 := by decide
  exact ⟨decodeTableWord_packReq 0x9BE3E0A3 0x131DA070 5,
    hminus ▸ decodeTableWord_packReq 0x12345678 0x9ABCDEF0 (-1),
    decodeTableWord_packReq 0xFFFFFFFF 0 4611686018427387904,
    decodeTableWord_phase 0b100 (decode_encode .advance)⟩

end Sys2Proof.Machine
end

section
/-! PROOF. The output ports and the transfers (R71 to R76): when each transfer happens, and what the block's step does
at it. -/

namespace Sys2Proof.Machine

/-! ### The output ports -/

theorem reqReady_iff (s : State) : s.reqReady = true ↔ s.phase = .idle ∧ s.rst = false := by
  simp [State.reqReady]

theorem rspValid_iff (s : State) : s.rspValid = true ↔ s.phase = .respond ∧ s.rst = false := by
  simp [State.rspValid]

theorem busy_iff (s : State) : s.busy = true ↔ s.phase ≠ .idle ∧ s.rst = false := by
  simp [State.busy]

theorem busy_eq_not_reqReady {s : State} (hr : s.rst = false) : s.busy = !s.reqReady := by
  simp [State.busy, State.reqReady, hr]

theorem tblReqValid_iff (s : State) :
    s.tblReqValid = true ↔ s.phase = .seed ∧ s.tblPend = false ∧ s.rst = false := by
  simp [State.tblReqValid, and_assoc]

/-- Settles O14: each output is 1 under its equation, and the index is the shift of 16 by K. -/
theorem portOutputs : Obligations.PortOutputs := by
  intro s u
  have hidx {k : BitVec 2} (hk : s.k = k) : s.tblIdx = seedIndex k := congrArg seedIndex hk
  exact ⟨reqReady_iff s, rspValid_iff s, fun hvalid => if_pos hvalid, busy_iff s, busy_eq_not_reqReady,
    tblReqValid_iff s, hidx, hidx, hidx, hidx⟩

/-! ### When each transfer happens -/

theorem reqTransfer_iff (s : State) : s.reqTransfer = true ↔ s.reqs ≠ [] ∧ s.phase = .idle ∧ s.rst = false := by
  simp only [State.reqTransfer, State.reqValid, Bool.and_eq_true, reqReady_iff, Bool.not_eq_true',
    List.isEmpty_eq_false_iff]
  tauto

theorem rspTransfer_iff (s : State) :
    s.rspTransfer = true ↔ s.phase = .respond ∧ s.rspReady = true ∧ s.rst = false := by
  simp only [State.rspTransfer, Bool.and_eq_true, rspValid_iff, Bool.not_eq_true']
  tauto

theorem tblReqTransfer_iff (s : State) :
    s.tblReqTransfer = true ↔ s.phase = .seed ∧ s.tblPend = false ∧ s.tblReqReady = true ∧ s.rst = false := by
  simp only [State.tblReqTransfer, Bool.and_eq_true, tblReqValid_iff, Bool.not_eq_true']
  tauto

theorem tblRspTransfer_iff (s : State) :
    s.tblRspTransfer = true ↔ s.tblPend = true ∧ s.tblAnswers = true ∧ s.rst = false := by
  simp only [State.tblRspTransfer, State.tblRspValid, Bool.and_eq_true, Bool.not_eq_true']
  tauto

/-- Settles O54: each transfer's valid and ready under their port equations, with `rst` = 0. -/
theorem transferConditions : Obligations.TransferConditions := fun s =>
  ⟨reqTransfer_iff s, rspTransfer_iff s, tblReqTransfer_iff s, tblRspTransfer_iff s⟩

/-! ### Waiting in ACCEPT and SEED -/

theorem doAccept_of_nil {s : State} (h : s.reqs = []) : doAccept s = s := by
  simp [doAccept, h]

/-- Settles O24: with no request on the port, ACCEPT waits. -/
theorem acceptWaits : Obligations.AcceptWaits := fun _ h => congrArg Host.Outcome.next (doAccept_of_nil h)

theorem seedWith_of_offered {s : State} (d : Word) (fresh : Bool) (hpend : s.tblPend = false)
    (hready : s.tblReqReady = false) : seedWith d fresh s = s := by
  simp [seedWith, hpend, hready]

theorem seedWith_of_issued {s : State} (d : Word) (fresh : Bool) (hpend : s.tblPend = false)
    (hready : s.tblReqReady = true) (hans : s.tblAnswers = false) : seedWith d fresh s = s.issueRead := by
  simp [seedWith, hpend, hready, hans]

theorem seedWith_of_outstanding {s : State} (d : Word) (fresh : Bool) (hpend : s.tblPend = true)
    (hans : s.tblAnswers = false) : seedWith d fresh s = s := by
  simp [seedWith, hpend, hans]

/-- Settles O28: what SEED does without an answer does not depend on the word it would take. -/
theorem seedWaits : Obligations.SeedWaits := fun _ =>
  ⟨fun hpend hready => congrArg Host.Outcome.next (seedWith_of_offered _ _ hpend hready),
    fun hpend hready hans => congrArg Host.Outcome.next (seedWith_of_issued _ _ hpend hready hans),
    fun hpend hans => congrArg Host.Outcome.next (seedWith_of_outstanding _ _ hpend hans)⟩

/-! ### What the block's step does at a transfer -/

/-- The row a word is taken into holds it, the last seed row after the fixed rows are loaded too (R120, R121). -/
theorem row_odd_takeWord (s : State) (d : Word) (fresh : Bool) :
    (s.takeWord d fresh).odd.row (seedRow s.k) = d := by
  by_cases hk : s.k.toNat < 3
  case pos =>
    have hodd : (s.takeWord d fresh).odd = s.odd.setRow (seedRow s.k) d := by
      rw [takeWord_of_lt d fresh hk]; exact State.odd_setOdd s _
    rw [hodd, BitMatrix.row_setRow_same]
  case neg =>
    have hodd : (s.takeWord d fresh).odd = loadFixedRows (s.odd.setRow (seedRow s.k) d) := by
      rw [takeWord_of_last d fresh hk]; exact State.odd_setOdd s _
    have hseed : (seedRow s.k).val < 4 := s.k.isLt
    rw [hodd, loadFixedRows, BitMatrix.row_ofRows, if_pos hseed, BitMatrix.row_setRow_same]

theorem blockTransition_idle {s : State} (hp : s.phase = .idle) : blockTransition s = doAccept s := by
  simp [blockTransition, transitionWith, hp]

theorem blockTransition_eq_seedWith {s : State} (hp : s.phase = .seed) :
    blockTransition s = seedWith s.tblRspData s.wordDrawn s := by
  simp [blockTransition, transitionWith, hp, doSeed]

/-- Only ACCEPT takes a request, only RELEASE hands a response over, and only SEED requests a table index (R62). -/
theorem blockTransition_records (s : State) :
    (s.phase ≠ .idle → (blockTransition s).reqs = s.reqs) ∧
      (s.phase ≠ .respond → (blockTransition s).responses = s.responses) ∧
      (s.phase ≠ .seed → (blockTransition s).reads = s.reads) := by
  rw [blockTransition_eq]
  rcases transitionWith_cases (seedWith s.tblRspData s.wordDrawn) s with
    ⟨hp, e⟩ | ⟨hp, e⟩ | ⟨hp, e⟩ | ⟨hp, e⟩ | ⟨hp, e⟩ | ⟨hp, e⟩ | ⟨hp, e⟩ <;> rw [e]
  · rcases hr : s.reqs with _ | ⟨r, rest⟩ <;> simp [doAccept, hp, hr]
  · simp [hp]
  · simp [doSquare]
  · simp [doApply]
  · simp [doAdvance]
  · simp [doFinish]
  · rcases doRelease_cases s with ⟨-, e'⟩ | ⟨-, e'⟩ <;> simp [e', hp]

/-- The oldest request is taken and latched at a request transfer (R71, R150). -/
theorem blockTransition_of_reqTransfer {s : State} (h : s.reqTransfer = true) :
    ∃ r rest, s.reqs = r :: rest ∧ (blockTransition s).reqs = rest ∧ (blockTransition s).acc = r.crc1 ∧
      (blockTransition s).crc2R = r.crc2 ∧ (blockTransition s).lenR = r.length := by
  obtain ⟨hreqs, hp, -⟩ := (reqTransfer_iff s).1 h
  obtain ⟨r, rest, hcons⟩ := List.exists_cons_of_ne_nil hreqs
  refine ⟨r, rest, hcons, ?_⟩
  rw [blockTransition_idle hp]
  simp [doAccept, hcons]

theorem reqs_blockTransition {s : State} (hr : s.rst = false) (h : s.reqTransfer = false) :
    (blockTransition s).reqs = s.reqs := by
  by_cases hp : s.phase = .idle
  case pos =>
    have hnil : s.reqs = [] := by
      by_contra hreqs
      exact Bool.eq_false_iff.1 h ((reqTransfer_iff s).2 ⟨hreqs, hp, hr⟩)
    rw [blockTransition_idle hp, doAccept_of_nil hnil]
  case neg => exact (blockTransition_records s).1 hp

/-- RES goes to the host at a response transfer (R73, R155). -/
theorem blockTransition_of_rspTransfer {s : State} (h : s.rspTransfer = true) :
    (blockTransition s).phase = .idle ∧ (blockTransition s).responses = s.responses ++ [s.res] := by
  obtain ⟨hp, htakes, -⟩ := (rspTransfer_iff s).1 h
  rw [blockTransition_respond hp htakes]
  exact ⟨rfl, rfl⟩

theorem responses_blockTransition {s : State} (hr : s.rst = false) (h : s.rspTransfer = false) :
    (blockTransition s).responses = s.responses := by
  by_cases hp : s.phase = .respond
  case pos =>
    have hwaits : s.rspReady = false := by
      by_contra htakes
      exact Bool.eq_false_iff.1 h ((rspTransfer_iff s).2 ⟨hp, Bool.of_not_eq_false htakes, hr⟩)
    simp [blockTransition, transitionWith, hp, doRelease, hwaits]
  case neg => exact (blockTransition_records s).2.1 hp

/-- With the read outstanding, or requested now, and answered, SEED takes the word on `tbl_rsp_data` (R76). -/
theorem blockTransition_of_answered {s : State} (hp : s.phase = .seed)
    (hreq : s.tblPend = true ∨ s.tblReqReady = true) (hans : s.tblAnswers = true) :
    blockTransition s = s.readRecorded.takeWord s.tblRspData s.wordDrawn := by
  rw [blockTransition_eq_seedWith hp, seedWith_of_answered _ _ hreq hans]

/-- That word goes into row K of ODD, and no read stays outstanding. -/
theorem word_taken_of_answered {s : State} (hp : s.phase = .seed)
    (hreq : s.tblPend = true ∨ s.tblReqReady = true) (hans : s.tblAnswers = true) :
    (blockTransition s).tblPend = false ∧ (blockTransition s).odd.row (seedRow s.k) = s.tblRspData := by
  rw [blockTransition_of_answered hp hreq hans]
  exact ⟨by simp, row_odd_takeWord s.readRecorded _ _⟩

theorem blockTransition_of_issued {s : State} (h : s.tblReqTransfer = true) (hans : s.tblAnswers = false) :
    blockTransition s = s.issueRead := by
  obtain ⟨hp, hpend, hready, -⟩ := (tblReqTransfer_iff s).1 h
  rw [blockTransition_eq_seedWith hp, seedWith_of_issued _ _ hpend hready hans]

/-- The index is recorded at a table request transfer, answered at once or not (R75). -/
theorem reads_of_tblReqTransfer {s : State} (h : s.tblReqTransfer = true) :
    (blockTransition s).reads = s.reads ++ [s.tblIdx] := by
  cases hans : s.tblAnswers
  case false => rw [blockTransition_of_issued h hans]; rfl
  case true =>
    obtain ⟨hp, hpend, hready, -⟩ := (tblReqTransfer_iff s).1 h
    rw [blockTransition_of_answered hp (.inr hready) hans]
    simp [State.readRecorded, hpend, State.tblIdx]

theorem reads_blockTransition {s : State} (hr : s.rst = false) (h : s.tblReqTransfer = false) :
    (blockTransition s).reads = s.reads := by
  by_cases hp : s.phase = .seed
  case neg => exact (blockTransition_records s).2.2 hp
  case pos =>
    rw [blockTransition_eq_seedWith hp]
    have hnone : ¬ (s.tblPend = false ∧ s.tblReqReady = true) := fun ⟨hpend, hready⟩ =>
      Bool.eq_false_iff.1 h ((tblReqTransfer_iff s).2 ⟨hp, hpend, hready, hr⟩)
    rcases seedWith_cases s.tblRspData s.wordDrawn s with
      ⟨-, -, e⟩ | ⟨hpend, hready, -⟩ | ⟨-, -, e⟩ | ⟨hpend, hready, -⟩ | ⟨-, -, e⟩
    · rw [e]
    · exact absurd ⟨hpend, hready⟩ hnone
    · rw [e]
    · exact absurd ⟨hpend, hready⟩ hnone
    · simp [e]

/-- No transfer happens at a reset edge (R230). -/
theorem no_transfer_of_rst {s : State} (hr : s.rst = true) :
    s.reqTransfer = false ∧ s.rspTransfer = false ∧ s.tblReqTransfer = false ∧ s.tblRspTransfer = false := by
  simp [State.reqTransfer, State.rspTransfer, State.tblReqTransfer, State.tblRspTransfer, hr]

theorem step_of_no_moves {s : State} (h : s.agenda = []) :
    step s = .next (if s.rst then doReset s else blockTransition s) := by
  rw [step, turn, h]; exact blockTurn_eq s

/-- Settles O55: a reset edge makes no transfer and keeps the records; otherwise each transfer is that of the one
transition that makes it. -/
theorem transfersHappenAtStep : Obligations.TransfersHappenAtStep := by
  intro s hinv hagenda
  refine ⟨_, step_of_no_moves hagenda, ?_⟩
  cases hr : s.rst
  case true =>
    obtain ⟨hreq, hrsp, htblReq, htblRsp⟩ := no_transfer_of_rst hr
    simp [hreq, hrsp, htblReq, htblRsp]
  case false =>
    rw [if_neg Bool.false_ne_true]
    refine ⟨blockTransition_of_reqTransfer, reqs_blockTransition hr, blockTransition_of_rspTransfer,
      responses_blockTransition hr, reads_of_tblReqTransfer, reads_blockTransition hr, fun h => ?_, fun h hans => ?_,
      fun h hans => ?_⟩
    · obtain ⟨hpend, hans, -⟩ := (tblRspTransfer_iff s).1 h
      exact word_taken_of_answered (hinv.pend_in_seed hpend) (.inl hpend) hans
    · obtain ⟨hp, -, hready, -⟩ := (tblReqTransfer_iff s).1 h
      exact word_taken_of_answered hp (.inr hready) hans
    · rw [blockTransition_of_issued h hans]
      exact ⟨rfl, rfl⟩

end Sys2Proof.Machine
end

section
/-! PROOF. What one step runs: the instruction decoded (R80, R81), or the move of another agent and nothing else
(R17, R70). -/

namespace Sys2Proof.Machine

theorem offAgenda_of_cons {s : State} {m : Move} {rest : List Move} (h : s.agenda = m :: rest) :
    s.offAgenda = { s with agenda := rest } := by
  simp [State.offAgenda, h]

/-- Outside a reset edge the block's turn runs the transition that PHASE selects (R80). -/
theorem blockTurn_of_decode {s : State} {i : Instr} (hr : s.rst = false)
    (h : decode (.phase (phaseBits s.phase)) = .ok i) : blockTurn s = exec i s := by
  simp [blockTurn, hr, h]

/-- Settles O6: PHASE and `rst` are the same before and after the move is taken off, and a REQ word decodes to the
COMBINE that its command runs. -/
theorem stepRunsDecoded : Obligations.StepRunsDecoded := by
  intro s i _
  refine ⟨fun hagenda hr h => ?_, fun rest hagenda hr h => ?_, fun w rest hagenda h => ?_⟩
  · rw [step, turn, hagenda]
    exact blockTurn_of_decode hr h
  · rw [step_of_cons hagenda, offAgenda_of_cons hagenda]
    exact blockTurn_of_decode hr h
  · obtain rfl : decodeReq w = i := Except.ok.inj h
    rw [step_of_cons hagenda, offAgenda_of_cons hagenda]
    rfl

/-- Settles O7: off the agenda, each move writes its own wire, list or flag. -/
theorem agentMovesFrame : Obligations.AgentMovesFrame := by
  intro s rest r b
  have hstep {m : Move} (h : s.agenda = m :: rest) : step s = moveTurn m { s with agenda := rest } := by
    rw [step_of_cons h, offAgenda_of_cons h]
  exact ⟨hstep, hstep, hstep, hstep, hstep, hstep⟩

end Sys2Proof.Machine
end

section
/-! PROOF. The matrix units: the product of R100 as a running sum over row numbers, its laws (R102), the grouped form
(R101), and the square (R104 to R107). -/

namespace Sys2Proof.Machine

/-! ### The running sum of the scan -/

/-- The sum of the scan of R100 after rows 0 to `n - 1`, written with the selection of R101. -/
def rowSum (m : BitMatrix) (v : Word) : Nat → Word
  | 0 => 0
  | n + 1 => rowSum m v n ^^^ andBy (groupedRow m n) (v.getLsbD n)

@[simp] theorem andBy_false (r : Word) : andBy r false = 0 := rfl

@[simp] theorem andBy_true (r : Word) : andBy r true = r := rfl

theorem andBy_xor (r : Word) (a b : Bool) : andBy r (xor a b) = andBy r a ^^^ andBy r b := by
  cases a
  case false => simp
  case true => cases b <;> simp

theorem getLsbD_andBy (r : Word) (b : Bool) (i : Nat) : (andBy r b).getLsbD i = (b && r.getLsbD i) := by
  cases b <;> simp

theorem groupedRow_val (m : BitMatrix) (j : Fin 32) : groupedRow m j.val = m.row j := dif_pos j.isLt

/-- Skipping an unselected row is adding the 0 that `andBy` gives. -/
theorem xor_selectedRow (m : BitMatrix) (sum : Word) (selected : Bool) (j : Fin 32) :
    (if selected then sum ^^^ m.row j else sum) = sum ^^^ andBy (groupedRow m j.val) selected := by
  rw [groupedRow_val]
  cases selected <;> simp

theorem foldl_range_eq_rowSum (m : BitMatrix) (v : Word) (n : Nat) :
    (List.range n).foldl (fun sum j => sum ^^^ andBy (groupedRow m j) (v.getLsbD j)) 0 = rowSum m v n := by
  induction n with
  | zero => rfl
  | succ n ih => rw [List.range_succ, List.foldl_append, ih]; rfl

/-- The product is the running sum after all 32 rows. -/
theorem gf2Mult_eq_rowSum (m : BitMatrix) (v : Word) : gf2Mult m v = rowSum m v 32 := by
  rw [← foldl_range_eq_rowSum, ← List.map_coe_finRange_eq_range, List.foldl_map, gf2Mult]
  simp only [xor_selectedRow]

/-- Rows that no bit of `v` selects leave the sum as it is. -/
theorem rowSum_eq_of_clear {v : Word} {n k : Nat} (hclear : ∀ i, n ≤ i → v.getLsbD i = false) (hle : n ≤ k)
    (m : BitMatrix) : rowSum m v k = rowSum m v n := by
  induction hle with
  | refl => rfl
  | step hle ih => simp [rowSum, hclear _ hle, ih]

/-! ### The laws of the product (R102) -/

theorem rowSum_xor (m : BitMatrix) (u v : Word) (n : Nat) :
    rowSum m (u ^^^ v) n = rowSum m u n ^^^ rowSum m v n := by
  induction n with
  | zero => simp [rowSum]
  | succ n ih =>
    rw [rowSum, rowSum, rowSum, ih, BitVec.getLsbD_xor, andBy_xor]
    ac_rfl

theorem gf2Mult_xor (m : BitMatrix) (u v : Word) : gf2Mult m (u ^^^ v) = gf2Mult m u ^^^ gf2Mult m v := by
  simp only [gf2Mult_eq_rowSum, rowSum_xor]

/-- A linear map sends 0, which is `0 ^^^ 0`, to the sum of a value with itself. -/
@[simp] theorem gf2Mult_zero (m : BitMatrix) : gf2Mult m 0 = 0 := by
  simpa using gf2Mult_xor m 0 0

theorem getLsbD_basisVector (j : Fin 32) (n : Nat) : (1#32 <<< j.val).getLsbD n = decide (j.val = n) := by
  rw [← BitVec.twoPow_eq, BitVec.getLsbD_twoPow]
  simp

/-- With the basis vector `1 << j` the sum is 0 until row `j` is added, and that row from then on. -/
theorem rowSum_basisVector (m : BitMatrix) (j : Fin 32) (n : Nat) :
    rowSum m (1#32 <<< j.val) n = if j.val < n then m.row j else 0 := by
  induction n with
  | zero => rfl
  | succ n ih =>
    rw [rowSum, ih, getLsbD_basisVector]
    simp only [Nat.lt_succ_iff_lt_or_eq]
    by_cases h : j.val = n
    · simp [← h, groupedRow_val]
    · simp [h]

theorem gf2Mult_basisVector (m : BitMatrix) (j : Fin 32) : gf2Mult m (1#32 <<< j.val) = m.row j := by
  rw [gf2Mult_eq_rowSum, rowSum_basisVector, if_pos j.isLt]

/-- With the identity the sum is the bits of `v` scanned so far. -/
theorem getLsbD_rowSum_identityMatrix (v : Word) (i : Nat) {n : Nat} (hn : n ≤ 32) :
    (rowSum identityMatrix v n).getLsbD i = (decide (i < n) && v.getLsbD i) := by
  induction n with
  | zero => simp [rowSum]
  | succ n ih =>
    have hrow : (groupedRow identityMatrix n).getLsbD i = decide (n = i) := by
      rw [groupedRow_val identityMatrix ⟨n, hn⟩, identityMatrix, BitMatrix.row_ofRows, getLsbD_basisVector]
    rw [rowSum, BitVec.getLsbD_xor, ih (by omega), getLsbD_andBy, hrow]
    simp only [Nat.lt_succ_iff_lt_or_eq]
    by_cases h : i = n
    · simp [h]
    · simp [h, Ne.symm h]

theorem gf2Mult_identityMatrix (v : Word) : gf2Mult identityMatrix v = v := by
  apply BitVec.eq_of_getLsbD_eq
  intro i hi
  rw [gf2Mult_eq_rowSum, getLsbD_rowSum_identityMatrix v i le_rfl]
  simp [hi]

/-- Settles O16: the laws follow the scan row by row. -/
theorem gf2MultLaws : Obligations.Gf2MultLaws :=
  ⟨gf2Mult_xor, gf2Mult_zero, gf2Mult_basisVector, gf2Mult_identityMatrix⟩

/-! ### The grouped form (R101) -/

/-- One round adds the rows `i` to `i + 3`. -/
theorem groupedLoop_succ_rowSum (m : BitMatrix) (v : Word) (fuel i : Nat) (h : v >>> i ≠ 0) :
    groupedLoop m (fuel + 1) i (v >>> i) (rowSum m v i) =
      groupedLoop m fuel (i + 4) (v >>> (i + 4)) (rowSum m v (i + 4)) := by
  rw [groupedLoop, if_neg h, BitVec.shiftRight_add]
  simp only [BitVec.getLsbD_ushiftRight, rowSum, Nat.add_zero]

/-- No bit of `v` from number `i` on is set when the rest of the scan is 0. -/
theorem getLsbD_eq_false_of_ushiftRight_eq_zero {v : Word} {i : Nat} (h : v >>> i = 0) (k : Nat) (hk : i ≤ k) :
    v.getLsbD k = false := by
  simpa [hk] using congrArg (BitVec.getLsbD · (k - i)) h

/-- From any multiple of four rows the rounds end with the full sum: they stop early only when the rest of `v` is 0, and
the fuel reaches past row 31, beyond which no bit is set. -/
theorem groupedLoop_rowSum (m : BitMatrix) (v : Word) {fuel i : Nat} (h : i + 4 * fuel = 36) :
    groupedLoop m fuel i (v >>> i) (rowSum m v i) = rowSum m v 32 := by
  induction fuel generalizing i with
  | zero =>
    obtain rfl : i = 36 := h
    exact rowSum_eq_of_clear (fun k hk => BitVec.getLsbD_of_ge v k hk) (by omega) m
  | succ fuel ih =>
    by_cases hrest : v >>> i = 0
    · have hclear := getLsbD_eq_false_of_ushiftRight_eq_zero hrest
      rw [groupedLoop, if_pos hrest, rowSum_eq_of_clear (k := 32) hclear (by omega)]
    · rw [groupedLoop_succ_rowSum m v fuel i hrest]
      exact ih (by omega)

/-- Settles O18: the rounds start at row 0, with `v` unshifted and nothing added. -/
theorem groupedFormAgrees : Obligations.GroupedFormAgrees := by
  intro m v
  have hloop := groupedLoop_rowSum m v (fuel := 9) (i := 0) rfl
  rwa [BitVec.ushiftRight_zero, ← gf2Mult_eq_rowSum] at hloop

/-! ### The square (R104 to R107) -/

theorem row_gf2Square (m : BitMatrix) (n : Fin 32) : (gf2Square m).row n = gf2Mult m (m.row n) :=
  BitMatrix.row_ofRows _ n

theorem gf2Square_identityMatrix : gf2Square identityMatrix = identityMatrix :=
  BitMatrix.ext_rows fun n => by rw [row_gf2Square, gf2Mult_identityMatrix]

theorem gf2Square_zero : gf2Square BitMatrix.zero = BitMatrix.zero :=
  BitMatrix.ext_rows fun n => by rw [row_gf2Square, BitMatrix.zero, BitMatrix.row_ofRows, gf2Mult_zero]

/-- Settles O19: a row is read from the definition, and the two fixed matrices are compared row by row. -/
theorem squareRows : Obligations.SquareRows :=
  ⟨row_gf2Square, gf2Square_identityMatrix, gf2Square_zero⟩

theorem gf2Mult_andBy (m : BitMatrix) (r : Word) (b : Bool) : gf2Mult m (andBy r b) = andBy (gf2Mult m r) b := by
  cases b
  case false => exact gf2Mult_zero m
  case true => rfl

/-- Past row 31 both sides are 0: a row number there names no row, and the product of 0 is 0. -/
theorem groupedRow_gf2Square (m : BitMatrix) (i : Nat) :
    groupedRow (gf2Square m) i = gf2Mult m (groupedRow m i) := by
  unfold groupedRow
  split
  case isTrue => exact row_gf2Square m _
  case isFalse => exact (gf2Mult_zero m).symm

/-- Multiplying by `m`, which is linear, carries the scan of `m` to the scan of its square. -/
theorem rowSum_gf2Square (m : BitMatrix) (v : Word) (n : Nat) :
    rowSum (gf2Square m) v n = gf2Mult m (rowSum m v n) := by
  induction n with
  | zero => exact (gf2Mult_zero m).symm
  | succ n ih =>
    rw [rowSum, rowSum, ih, gf2Mult_xor, gf2Mult_andBy, groupedRow_gf2Square]

theorem gf2Mult_gf2Square (m : BitMatrix) (v : Word) : gf2Mult (gf2Square m) v = gf2Mult m (gf2Mult m v) := by
  rw [gf2Mult_eq_rowSum, rowSum_gf2Square, ← gf2Mult_eq_rowSum]

theorem matrixPower_add (m : BitMatrix) (a b : Nat) (v : Word) :
    matrixPower m (a + b) v = matrixPower m a (matrixPower m b v) := by
  induction a with
  | zero => rw [Nat.zero_add, matrixPower]
  | succ a ih => rw [Nat.succ_add, matrixPower, matrixPower, ih]

theorem gf2Mult_squareTimes (m : BitMatrix) (k : Nat) (v : Word) :
    gf2Mult (squareTimes m k) v = matrixPower m (2 ^ k) v := by
  induction k generalizing v with
  | zero => rfl
  | succ k ih =>
    calc gf2Mult (squareTimes m (k + 1)) v
      _ = gf2Mult (squareTimes m k) (gf2Mult (squareTimes m k) v) := gf2Mult_gf2Square _ v
      _ = matrixPower m (2 ^ k) (matrixPower m (2 ^ k) v) := by rw [ih, ih]
      _ = matrixPower m (2 ^ (k + 1)) v := by rw [← matrixPower_add, pow_succ, mul_two]

/-- Settles O20: the product with the square is two products, and each squaring doubles the exponent. -/
theorem squareComposition : Obligations.SquareComposition :=
  ⟨gf2Mult_gf2Square, gf2Mult_squareTimes⟩

/-- Every row named is a row of the square, and any other is still the destination's: no row written depends on the
destination. -/
theorem row_squareRowsInto (m d : BitMatrix) (order : List (Fin 32)) (n : Fin 32) :
    (squareRowsInto m order d).row n = if n ∈ order then gf2Mult m (m.row n) else d.row n := by
  induction order generalizing d with
  | nil => rfl
  | cons j order ih =>
    have hstep : squareRowsInto m (j :: order) d = squareRowsInto m order (d.setRow j (gf2Mult m (m.row j))) := rfl
    rw [hstep, ih, row_setRow]
    by_cases hmem : n ∈ order
    · simp [hmem]
    · by_cases hn : n = j
      · simp [hn]
      · simp [hmem, hn]

/-- Settles O21: each row is named, so none of the destination's is left. -/
theorem squareRowOrderFree : Obligations.SquareRowOrderFree := by
  intro m d order hall
  apply BitMatrix.ext_rows
  intro n
  rw [row_squareRowsInto, if_pos (hall n), row_gf2Square]

/-- The matrix that exchanges bits 0 and 1, and clears the others. -/
def exchangeMatrix : BitMatrix := (BitMatrix.zero.setRow 0 2).setRow 1 1

/-- Settles O22: row 1 of the square is the old row 0, which the in-place square has overwritten (R106, R240). -/
theorem squareInPlaceDiffers : Obligations.SquareInPlaceDiffers := by
  have hinPlace : (squareInPlace exchangeMatrix).row 1 = 1 := by decide
  have hsquare : (gf2Square exchangeMatrix).row 1 = 2 := by decide
  refine ⟨exchangeMatrix, fun h => ?_⟩
  rw [h, hsquare] at hinPlace
  exact absurd hinPlace (by decide)

end Sys2Proof.Machine
end

section
/-! PROOF. The four transitions of the engine, one at a time (R120, R123 to R125). -/

namespace Sys2Proof.Machine

theorem doSeed_of_settled {s : State} (h : s.wordDrawn = false) :
    doSeed s = seedWith (tableRead s.table (seedIndex s.k)) false s := by
  simp [doSeed, State.tblRspData, h]

/-- Settles O25: the word SEED takes is the entry that K names, and where it goes depends on whether K is 3. -/
theorem seedCompletes : Obligations.SeedCompletes := by
  intro s hreq hans hsettled
  have hseed : exec .seed s = .next (s.readRecorded.takeWord (tableRead s.table (seedIndex s.k)) false) := by
    rw [← seedWith_of_answered _ _ hreq hans, ← doSeed_of_settled hsettled]; rfl
  rw [hseed]
  constructor
  · intro hk
    rw [takeWord_of_lt (s := s.readRecorded) _ _ (show s.k.toNat < 3 by bv_omega)]
    cases hsel : s.sel <;> simp [State.readRecorded, State.setOdd, State.odd, hsel, seedIndex]
  · intro hk
    rw [takeWord_of_last (s := s.readRecorded) _ _ (show ¬ s.k.toNat < 3 by simp [hk])]
    cases hsel : s.sel <;> simp [State.readRecorded, State.setOdd, State.odd, hsel, seedIndex, seedRow, hk]

/-- Settles O29: SEL says which buffer is EVEN. -/
theorem squareCompletes : Obligations.SquareCompletes := fun _ =>
  ⟨fun hsel => congrArg Host.Outcome.next (by simp [doSquare, State.setEven, State.odd, hsel]),
    fun hsel => congrArg Host.Outcome.next (by simp [doSquare, State.setEven, State.odd, hsel])⟩

theorem lenBit0_eq (n : Len) : lenBit0 n = decide (n.toNat % 2 = 1) := by
  simp [lenBit0, BitVec.getLsbD, Nat.testBit_zero]

theorem doApply_of_acc {s : State} {v : Word} (h : (if lenBit0 s.lenR then gf2Mult s.even s.acc else s.acc) = v) :
    doApply s = { s with acc := v, phase := .advance } := by
  rw [doApply, h]

/-- Settles O30: bit 0 of LEN_R says whether ACC is multiplied, and the product of 0 is 0. -/
theorem applyCompletes : Obligations.ApplyCompletes := by
  refine fun s => ⟨fun hodd hsel => ?_, fun hodd hsel => ?_, fun heven => ?_, fun hzero => ?_⟩ <;>
    refine congrArg Host.Outcome.next (doApply_of_acc ?_)
  · simp [lenBit0_eq, hodd, State.even, hsel]
  · simp [lenBit0_eq, hodd, State.even, hsel]
  · simp [lenBit0_eq, heven]
  · rw [hzero, gf2Mult_zero, ite_self]

theorem doAdvance_of_len {s : State} {n : Len} (h : lenShift s.lenR = n) :
    doAdvance s = { s with sel := !s.sel, lenR := n, phase := if n = 0 then .finish else .square } := by
  simp [doAdvance, lenLast, h]

/-- SEL names the buffers' roles, so flipping it swaps them (R27). -/
theorem roles_doAdvance (s : State) : (doAdvance s).odd = s.even ∧ (doAdvance s).even = s.odd := by
  cases hsel : s.sel <;> simp [doAdvance, State.odd, State.even, hsel]

/-- Settles O31: the shifted value is half of LEN_R, which is 0 when LEN_R is at most 1. -/
theorem advanceCompletes : Obligations.AdvanceCompletes := by
  refine fun s => ⟨fun hle => ?_, fun hlt => ?_, fun t ht => ?_⟩
  · have hshift : lenShift s.lenR = 0 := BitVec.eq_of_toNat_eq ((toNat_lenShift _).trans (Nat.div_eq_of_lt (by omega)))
    exact congrArg Host.Outcome.next (doAdvance_of_len hshift)
  · have hshift : lenShift s.lenR = BitVec.ofNat 64 (s.lenR.toNat / 2) := by
      rw [← toNat_lenShift, BitVec.ofNat_toNat, BitVec.setWidth_eq]
    have hne : BitVec.ofNat 64 (s.lenR.toNat / 2) ≠ 0 := by bv_omega
    exact congrArg Host.Outcome.next ((doAdvance_of_len hshift).trans (by rw [if_neg hne]))
  · cases ht
    exact roles_doAdvance s

end Sys2Proof.Machine
end

section
/-! PROOF. A run in which only the block moves, and the two phases that wait without bound (R129, R251). -/

namespace Sys2Proof.Machine

/-- Only the block moves from here on, and not by reset edges. -/
structure State.BlockAlone (s : State) : Prop where
  agenda : s.agenda = []
  rst : s.rst = false

theorem iterate_sameSurroundings (n : Nat) (s : State) : SameSurroundings s (blockTransition^[n] s) :=
  Function.Iterate.rec (SameSurroundings s) ⟨rfl, rfl, rfl, rfl, rfl, rfl⟩
    (fun _ => blockTransition_sameSurroundings) n

theorem State.BlockAlone.iterate {s : State} (h : s.BlockAlone) (n : Nat) : (blockTransition^[n] s).BlockAlone :=
  ⟨(iterate_sameSurroundings n s).agenda.trans h.agenda, (iterate_sameSurroundings n s).rst.trans h.rst⟩

theorem step_of_blockAlone {s : State} (h : s.BlockAlone) : step s = .next (blockTransition s) := by
  rw [step_of_no_moves h.agenda, h.rst, if_neg Bool.false_ne_true]

/-- Then `n` steps are `n` transitions. -/
theorem run_of_blockAlone {s : State} (h : s.BlockAlone) (n : Nat) :
    Sys2Proof.core.run n s = .next (blockTransition^[n] s) := by
  induction n generalizing s with
  | zero => rfl
  | succ n ih => exact (run_succ_of_step n (step_of_blockAlone h)).trans (ih (h.iterate 1))

/-- Without an answer, SEED at most makes the table request of the row it waits for (R75, R76). -/
theorem iterate_seed_unanswered {s : State} (hp : s.phase = .seed) (hans : s.tblAnswers = false) (n : Nat) :
    blockTransition^[n] s = s ∨ blockTransition^[n] s = s.issueRead := by
  refine Function.Iterate.rec (fun t => t = s ∨ t = s.issueRead) (.inl rfl) (fun t ht => ?_) n
  rcases ht with rfl | rfl
  case inl =>
    rw [blockTransition_eq_seedWith hp]
    cases hpend : t.tblPend
    case true => exact .inl (seedWith_of_outstanding _ _ hpend hans)
    case false =>
      cases hready : t.tblReqReady
      case true => exact .inr (seedWith_of_issued _ _ hpend hready hans)
      case false => exact .inl (seedWith_of_offered _ _ hpend hready)
  case inr =>
    rw [blockTransition_eq_seedWith (s := s.issueRead) hp]
    exact .inr (seedWith_of_outstanding (s := s.issueRead) _ _ rfl hans)

/-- Settles O35: IDLE without a request is a fixed point, and SEED without an answer changes at most the record of its
request. -/
theorem idleAndSeedWait : Obligations.IdleAndSeedWait := by
  intro s n hr hagenda
  rw [run_of_blockAlone ⟨hagenda, hr⟩]
  refine ⟨fun hp hreqs => ?_, fun hp hans => ⟨_, rfl, ?_⟩⟩
  · have hfixed : blockTransition s = s := (blockTransition_idle hp).trans (doAccept_of_nil hreqs)
    rw [Function.iterate_fixed hfixed]
  · rcases iterate_seed_unanswered hp hans n with e | e <;> rw [e]
    · exact ⟨hp, rfl, rfl, rfl, rfl⟩
    · exact ⟨hp, rfl, rfl, rfl, rfl⟩

end Sys2Proof.Machine
end

section
/-! PROOF. The square-and-multiply loop: what an iteration does, when the loop ends and with which ACC (R123 to
R128). -/

namespace Sys2Proof.Machine

/-! ### Powers of a matrix -/

/-- A matrix that is the power `a` of another, as a map, multiplies the exponents (R14). -/
theorem matrixPower_of_gf2Mult {m o : BitMatrix} {a : Nat} (h : ∀ v, gf2Mult m v = matrixPower o a v) (n : Nat)
    (v : Word) : matrixPower m n v = matrixPower o (n * a) v := by
  induction n with
  | zero => rw [Nat.zero_mul, matrixPower, matrixPower]
  | succ n ih => rw [matrixPower, ih, h, ← matrixPower_add, Nat.succ_mul, Nat.add_comm]

theorem matrixPower_gf2Square (m : BitMatrix) (n : Nat) (v : Word) :
    matrixPower (gf2Square m) n v = matrixPower m (2 * n) v := by
  rw [matrixPower_of_gf2Mult (a := 2) (fun v => gf2Mult_gf2Square m v), Nat.mul_comm]

/-- APPLY's choice as a power: the square is applied once or not at all (R124). -/
theorem apply_eq_matrixPower (m : BitMatrix) (len : Len) (v : Word) :
    (if lenBit0 len then gf2Mult (gf2Square m) v else v) = matrixPower m (2 * (len.toNat % 2)) v := by
  rw [lenBit0_eq, ← matrixPower_gf2Square]
  obtain heven | hodd := Nat.mod_two_eq_zero_or_one len.toNat
  · simp [heven, matrixPower]
  · simp [hodd, matrixPower]

/-! ### One iteration -/

/-- An iteration ends the loop exactly when it shifts LEN_R to 0 (R125). -/
theorem phase_loopIteration (s : State) :
    (loopIteration s).phase = if lenShift s.lenR = 0 then .finish else .square := by
  simp [loopIteration, doAdvance, doApply, doSquare, lenLast]

theorem acc_loopIteration_eq_matrixPower (s : State) :
    (loopIteration s).acc = matrixPower s.odd (2 * (s.lenR.toNat % 2)) s.acc :=
  (acc_loopIteration s).trans (apply_eq_matrixPower s.odd s.lenR s.acc)

theorem iterate_loopIteration {s : State} (hp : s.phase = .square) : blockTransition^[3] s = loopIteration s := by
  have happly : blockTransition (doSquare s) = doApply (doSquare s) := blockTransition_apply rfl
  have hadvance : blockTransition (doApply (doSquare s)) = loopIteration s := blockTransition_advance rfl
  simp only [Function.iterate_succ_apply, Function.iterate_zero_apply, blockTransition_square hp, happly, hadvance]

/-- Settles O45: the square doubles the exponent of ODD, and bit `k` of `n` says whether its power is applied to ACC. -/
theorem loopInvariantKept : Obligations.LoopInvariantKept := by
  intro s o c n k hp hr hagenda hodd hlen hacc
  have hshift : lenShift s.lenR = n >>> (k + 1) := by rw [hlen, lenShift, BitVec.shiftRight_add]
  have hbit : s.lenR.toNat % 2 = n.toNat / 2 ^ k % 2 := by
    rw [hlen, BitVec.toNat_ushiftRight, Nat.shiftRight_eq_div_pow]
  have hbits : 2 * (n.toNat / 2 ^ k % 2) * 2 ^ k + 2 * (n.toNat % 2 ^ k) = 2 * (n.toNat % 2 ^ (k + 1)) := by
    rw [Nat.mod_pow_succ]; ring
  refine ⟨loopIteration s, ?_, fun v => ?_, hshift, ?_, hshift ▸ phase_loopIteration s⟩
  · rw [run_of_blockAlone ⟨hagenda, hr⟩, iterate_loopIteration hp]
  · rw [odd_loopIteration, gf2Mult_gf2Square, hodd, hodd, ← matrixPower_add, pow_succ, mul_two]
  · rw [acc_loopIteration_eq_matrixPower, matrixPower_of_gf2Mult hodd, hacc, ← matrixPower_add, hbit, hbits]

/-! ### The whole loop -/

theorem iterations_of_last {n : Len} (h : lenShift n = 0) : iterations n = 1 := by
  have hle : n.toNat / 2 = 0 := by rw [← toNat_lenShift, h]; rfl
  rw [iterations, Nat.log2_def, if_neg (by omega)]

theorem iterations_of_not_last {n : Len} (h : lenShift n ≠ 0) : iterations n = iterations (lenShift n) + 1 := by
  have hne : (lenShift n).toNat ≠ 0 := fun h0 => h (BitVec.eq_of_toNat_eq h0)
  rw [toNat_lenShift] at hne
  rw [iterations, iterations, toNat_lenShift, Nat.log2_def, if_pos (by omega)]

/-- The loop makes one iteration for each bit of LEN_R, shifts LEN_R to 0 and leaves the matrix to the power of twice
LEN_R applied to ACC; besides it writes SEL and the buffers only (R126, R127). -/
theorem iterate_loop {s : State} (hp : s.phase = .square) :
    ∃ sel matA matB,
      blockTransition^[3 * iterations s.lenR] s =
        { s with
          phase := .finish, sel := sel, matA := matA, matB := matB, lenR := 0,
          acc := matrixPower s.odd (2 * s.lenR.toNat) s.acc } := by
  induction h : iterations s.lenR generalizing s with
  | zero => exact absurd h (Nat.succ_ne_zero _)
  | succ b ih =>
    have hphase := phase_loopIteration s
    have hacc := acc_loopIteration_eq_matrixPower s
    rw [Nat.mul_succ, Function.iterate_add_apply, iterate_loopIteration hp]
    by_cases hlast : lenShift s.lenR = 0
    case pos =>
      have hb : b = 0 := Nat.succ.inj (h.symm.trans (iterations_of_last hlast))
      have hhalf : s.lenR.toNat / 2 = 0 := by rw [← toNat_lenShift, hlast]; rfl
      rw [if_pos hlast] at hphase
      rw [Nat.mod_eq_of_lt (by omega)] at hacc
      refine ⟨(loopIteration s).sel, (loopIteration s).matA, (loopIteration s).matB, ?_⟩
      rw [hb, ← hacc, ← hlast, ← hphase]
      rfl
    case neg =>
      rw [if_neg hlast] at hphase
      have hb : iterations (loopIteration s).lenR = b :=
        Nat.succ.inj ((iterations_of_not_last hlast).symm.trans h)
      have hexp : 2 * (2 * (s.lenR.toNat / 2)) + 2 * (s.lenR.toNat % 2) = 2 * s.lenR.toNat := by omega
      have hpower : matrixPower (loopIteration s).odd (2 * (loopIteration s).lenR.toNat) (loopIteration s).acc =
          matrixPower s.odd (2 * s.lenR.toNat) s.acc := by
        rw [odd_loopIteration, hacc, matrixPower_gf2Square, ← matrixPower_add, ← hexp, ← toNat_lenShift]
        rfl
      obtain ⟨sel, matA, matB, e⟩ := ih hphase hb
      exact ⟨sel, matA, matB, by rw [e, hpower]; rfl⟩

/-- Settles O46: the loop reaches FINISH and writes none of the records. -/
theorem loopTerminates : Obligations.LoopTerminates := by
  intro s _ hp hr hagenda
  obtain ⟨sel, matA, matB, e⟩ := iterate_loop hp
  refine ⟨_, run_of_blockAlone ⟨hagenda, hr⟩ _, ?_⟩
  rw [e]
  exact ⟨rfl, rfl, rfl, rfl, rfl⟩

/-- The reference loop of R130 is that power too, with enough fuel for the bits of the length. -/
theorem engineLoop_eq_matrixPower {fuel : Nat} {m : BitMatrix} {acc : Word} {len : Len} (h : len.toNat < 2 ^ fuel) :
    engineLoop fuel m acc len = matrixPower m (2 * len.toNat) acc := by
  induction fuel generalizing m acc len with
  | zero => rw [show len.toNat = 0 by omega]; rfl
  | succ fuel ih =>
    have hstep : engineLoop (fuel + 1) m acc len =
        if lenLast len then matrixPower m (2 * (len.toNat % 2)) acc
        else engineLoop fuel (gf2Square m) (matrixPower m (2 * (len.toNat % 2)) acc) (lenShift len) := by
      rw [← apply_eq_matrixPower]; rfl
    have hhalf := toNat_lenShift len
    rw [hstep]
    split
    case isTrue hlast =>
      rw [(lenLast_iff len).1 hlast] at hhalf
      have hsmall : 0 = len.toNat / 2 := hhalf
      rw [Nat.mod_eq_of_lt (by omega)]
    case isFalse =>
      rw [ih (by omega), matrixPower_gf2Square, ← matrixPower_add, hhalf]
      congr 1
      omega

end Sys2Proof.Machine
end

section
/-! PROOF. How many transitions an operation takes, and what it holds when the engine is seeded, when it finishes and
when it ends (R120, R126, R127, R152). -/

namespace Sys2Proof.Machine

/-! ### The count -/

/-- The transitions of the operation in flight that are left before IDLE, when both agents respond at once (R127). -/
def State.transitionsLeft (s : State) : Nat :=
  match s.phase with
  | .idle => 0
  | .seed => 6 - s.k.toNat + 3 * iterations s.lenR
  | .square => 3 * iterations s.lenR + 2
  | .apply => 3 * iterations s.lenR + 1
  | .advance => 3 * iterations s.lenR
  | .finish => 2
  | .respond => 1

theorem transitionsLeft_respond {s : State} (hp : s.phase = .respond) : s.transitionsLeft = 1 := by
  simp [State.transitionsLeft, hp]

theorem phase_ne_idle_of_transitionsLeft {s : State} (h : 0 < s.transitionsLeft) : s.phase ≠ .idle := by
  intro hp
  simp [State.transitionsLeft, hp] at h

/-- A seed row taken is one transition fewer: K goes on, or the loop begins. -/
theorem transitionsLeft_takeWord (s : State) (d : Word) (fresh : Bool) (hp : s.phase = .seed) :
    (s.takeWord d fresh).transitionsLeft + 1 = s.transitionsLeft := by
  by_cases hk : s.k.toNat < 3
  case pos =>
    have hnext : (s.k + 1).toNat = s.k.toNat + 1 := by bv_omega
    rw [takeWord_of_lt d fresh hk]
    simp only [State.transitionsLeft, State.setOdd_phase, State.setOdd_lenR, hp, hnext]
    omega
  case neg =>
    rw [takeWord_of_last d fresh hk]
    simp only [State.transitionsLeft, State.setOdd_lenR, hp]
    omega

/-- ADVANCE ends the last iteration, or leaves one iteration fewer (R125). -/
theorem transitionsLeft_doAdvance (s : State) (hp : s.phase = .advance) :
    (doAdvance s).transitionsLeft + 1 = s.transitionsLeft := by
  rw [doAdvance_of_len rfl]
  by_cases hlast : lenShift s.lenR = 0
  · simp [State.transitionsLeft, hp, hlast, iterations_of_last hlast]
  · simp only [State.transitionsLeft, hp, if_neg hlast, iterations_of_not_last hlast]
    omega

/-- Before RESPOND, with a prompt table agent, each transition is one of those left. -/
theorem transitionsLeft_blockTransition {s : State} (hprompt : s.TablePrompt) (h : 1 < s.transitionsLeft) :
    (blockTransition s).transitionsLeft + 1 = s.transitionsLeft := by
  cases hp : s.phase
  case idle => exact absurd hp (phase_ne_idle_of_transitionsLeft (by omega))
  case seed =>
    rw [blockTransition_eq_seedWith hp, seedWith_of_answered _ _ (.inr hprompt.accepts) hprompt.answers]
    exact transitionsLeft_takeWord s.readRecorded _ _ hp
  case square => simp [blockTransition_square hp, doSquare, State.transitionsLeft, hp]
  case apply => simp [blockTransition_apply hp, doApply, State.transitionsLeft, hp]
  case advance => rw [blockTransition_advance hp, transitionsLeft_doAdvance s hp]
  case finish => simp [blockTransition_finish hp, doFinish, State.transitionsLeft, hp]
  case respond => rw [transitionsLeft_respond hp] at h; omega

theorem iterate_tablePrompt {s : State} (h : s.TablePrompt) (n : Nat) : (blockTransition^[n] s).TablePrompt :=
  ⟨(iterate_sameSurroundings n s).tblReqReady.trans h.accepts,
    (iterate_sameSurroundings n s).tblAnswers.trans h.answers⟩

/-- Before its last transition the operation hands over no response. -/
theorem iterate_transitionsLeft {s : State} (hprompt : s.TablePrompt) {n : Nat} (h : n < s.transitionsLeft) :
    (blockTransition^[n] s).transitionsLeft + n = s.transitionsLeft ∧
      (blockTransition^[n] s).responses = s.responses := by
  induction n with
  | zero => exact ⟨rfl, rfl⟩
  | succ n ih =>
    obtain ⟨hleft, hresponses⟩ := ih (by omega)
    have hbefore : 1 < (blockTransition^[n] s).transitionsLeft := by omega
    have hrespond : (blockTransition^[n] s).phase ≠ .respond := fun hp => by
      rw [transitionsLeft_respond hp] at hbefore
      omega
    have hnext := transitionsLeft_blockTransition (iterate_tablePrompt hprompt n) hbefore
    rw [Function.iterate_succ_apply', (blockTransition_records _).2.1 hrespond]
    exact ⟨by omega, hresponses⟩

/-- The one-step run of an operation is those transitions (R152). -/
theorem runOperation_eq_iterate {s : State} (hprompt : s.TablePrompt) {n : Nat} (h : n < s.transitionsLeft) :
    runOperation n s = blockTransition^[n] s := by
  induction n generalizing s with
  | zero => rfl
  | succ n ih =>
    have hnext := transitionsLeft_blockTransition hprompt (by omega)
    rw [runOperation_of_busy n (phase_ne_idle_of_transitionsLeft (by omega))]
    exact ih (iterate_tablePrompt hprompt 1) (by omega)

/-! ### The engine from SEED to FINISH -/

/-- The state after the four SEED transitions. -/
def State.seeded (s : State) : State :=
  { s.setOdd (initialOddOf s.table) with
    phase := .square, k := 3, tblPend := false, reads := s.reads ++ [16, 32, 64, 128] }

theorem odd_seeded (s : State) : s.seeded.odd = initialOddOf s.table := State.odd_setOdd s _

theorem even_seeded (s : State) : s.seeded.even = s.even := State.even_setOdd s (initialOddOf s.table)

theorem iterate_seed {s : State} (h : s.SeedsSettled) (hk : s.k = 0) : blockTransition^[4] s = s.seeded := by
  have hleft : 4 < s.transitionsLeft := by
    simp only [State.transitionsLeft, h.phase, hk, BitVec.ofNat_eq_ofNat, BitVec.toNat_ofNat]
    omega
  rw [← runOperation_eq_iterate h.prompt hleft, runOperation_seed 0 h hk, runOperation, State.seeded]

theorem row_initialOdd_seed (w0 w1 w2 w3 : Word) :
    (initialOdd w0 w1 w2 w3).row 0 = w0 ∧ (initialOdd w0 w1 w2 w3).row 1 = w1 ∧
      (initialOdd w0 w1 w2 w3).row 2 = w2 ∧ (initialOdd w0 w1 w2 w3).row 3 = w3 := by
  simp [initialOdd]

theorem row_initialOdd_fixed (w0 w1 w2 w3 : Word) {j : Fin 32} (hj : 4 ≤ j.val) :
    (initialOdd w0 w1 w2 w3).row j = fixedRow j := by
  obtain ⟨h0, h1, h2, h3⟩ : j.val ≠ 0 ∧ j.val ≠ 1 ∧ j.val ≠ 2 ∧ j.val ≠ 3 := by omega
  simp only [initialOdd, BitMatrix.row_ofRows, if_neg, h0, h1, h2, h3, not_false_eq_true]

/-- Settles O27: after the four transitions ODD is the initial odd matrix, whose rows are those named. -/
theorem seedingBuildsInitialOdd : Obligations.SeedingBuildsInitialOdd := by
  intro s hagenda hr hp hk hpend hdirty hprompt
  obtain ⟨hrow0, hrow1, hrow2, hrow3⟩ :=
    row_initialOdd_seed (tableRead s.table 16) (tableRead s.table 32) (tableRead s.table 64) (tableRead s.table 128)
  refine ⟨s.seeded, ?_, rfl, even_seeded s, rfl, rfl, rfl, rfl, rfl, ?_⟩
  · rw [run_of_blockAlone ⟨hagenda, hr⟩, iterate_seed ⟨hp, hpend, hprompt, hdirty, hagenda⟩ hk]
  · rw [odd_seeded, initialOddOf]
    exact ⟨hrow0, hrow1, hrow2, hrow3, fun j hj => row_initialOdd_fixed _ _ _ _ hj⟩

theorem doAccept_of_pos {s : State} {r : Request} {rest : List Request} (hreqs : s.reqs = r :: rest)
    (hpos : lenNonPositive r.length = false) :
    doAccept s =
      { s with
        reqs := rest, acc := r.crc1, crc2R := r.crc2, lenR := r.length, k := 0, sel := false, tblDirty := false,
        phase := .seed } := by
  simp [doAccept, hreqs, hpos]

section
variable {s : State} {r : Request} {rest : List Request} (hready : s.Ready) (hreqs : s.reqs = r :: rest)
  (hprompt : s.TablePrompt) (hagenda : s.agenda = [])

include hready hreqs hprompt hagenda in
/-- ACCEPT, the four SEED and the loop take a request of positive length from the port to FINISH (R126, R127). -/
theorem iterate_engine (hpos : lenNonPositive r.length = false) :
    ∃ sel matA matB,
      blockTransition^[5 + 3 * iterations r.length] s =
        { s with
          phase := .finish, k := 3, tblPend := false, sel := sel, matA := matA, matB := matB, lenR := 0, reqs := rest,
          crc2R := r.crc2, tblDirty := false, reads := s.reads ++ [16, 32, 64, 128],
          acc := matrixPower (initialOddOf s.table) (2 * r.length.toNat) r.crc1 } := by
  have haccept := (blockTransition_idle hready.idle).trans (doAccept_of_pos hreqs hpos)
  have hseeds : (blockTransition s).SeedsSettled := by
    rw [haccept]
    exact ⟨rfl, hready.pend, ⟨hprompt.accepts, hprompt.answers⟩, rfl, hagenda⟩
  have hseeded : blockTransition^[5] s = (blockTransition s).seeded := iterate_seed hseeds (by rw [haccept])
  obtain ⟨sel, matA, matB, e⟩ := iterate_loop (s := (blockTransition s).seeded) rfl
  rw [odd_seeded, haccept] at e
  refine ⟨sel, matA, matB, ?_⟩
  rw [Nat.add_comm, Function.iterate_add_apply, hseeded, haccept]
  exact e

end

theorem lenNonPositive_eq_decide (n : Len) : lenNonPositive n = decide (n.toInt ≤ 0) := by
  simp [lenNonPositive, BitVec.sle]

/-- The reference engine from the entries of a table, in closed form (R126, R130). -/
theorem engine_eq_matrixPower (table : Memory) (c : Word) (n : Len) :
    engine (tableRead table 16) (tableRead table 32) (tableRead table 64) (tableRead table 128) c n =
      matrixPower (initialOddOf table) (2 * n.toNat) c :=
  engineLoop_eq_matrixPower n.isLt

/-- Settles O47: at FINISH ACC is the closed form, and so is the reference engine. -/
theorem engineClosedForm : Obligations.EngineClosedForm := by
  intro s r rest hready hreqs hprompt hagenda hpositive
  have hpos : lenNonPositive r.length = false := by
    rw [lenNonPositive_eq_decide, decide_eq_false (not_le.2 hpositive)]
  obtain ⟨sel, matA, matB, e⟩ := iterate_engine hready hreqs hprompt hagenda hpos
  refine ⟨_, run_of_blockAlone ⟨hagenda, hready.rst⟩ _, ?_⟩
  rw [e]
  exact ⟨rfl, rfl, rfl, (engine_eq_matrixPower s.table r.crc1 r.length).symm⟩

/-! ### The whole operation -/

theorem transitionCount_of_pos {n : Len} (h : lenNonPositive n = false) : transitionCount n = 7 + 3 * iterations n := by
  simp [transitionCount, h]

section
variable {s : State} {r : Request} {rest : List Request} (hready : s.Ready) (hreqs : s.reqs = r :: rest)
  (hprompt : s.TablePrompt)

include hready hreqs in
/-- ACCEPT is the first transition of the count (R127, R151). -/
theorem transitionsLeft_accept : (blockTransition s).transitionsLeft + 1 = transitionCount r.length := by
  rw [blockTransition_idle hready.idle]
  cases hl : lenNonPositive r.length
  case true => simp [doAccept, hreqs, hl, State.transitionsLeft, transitionCount]
  case false =>
    rw [doAccept_of_pos hreqs hl, transitionCount_of_pos hl]
    simp only [State.transitionsLeft, BitVec.ofNat_eq_ofNat, BitVec.toNat_ofNat]
    omega

include hready hreqs hprompt in
/-- From its first transition to its last the operation is in flight and has handed over no response. -/
theorem iterate_inFlight {n : Nat} (hn : n + 1 < transitionCount r.length) :
    (blockTransition^[n + 1] s).phase ≠ .idle ∧ (blockTransition^[n + 1] s).responses = s.responses := by
  have hcount := transitionsLeft_accept hready hreqs
  obtain ⟨hleft, hresponses⟩ :=
    iterate_transitionsLeft (s := blockTransition s) (iterate_tablePrompt hprompt 1) (n := n) (by omega)
  rw [(blockTransition_records s).2.1 (by simp [hready.idle])] at hresponses
  exact ⟨phase_ne_idle_of_transitionsLeft (by rw [Function.iterate_succ_apply]; omega), hresponses⟩

include hready hreqs hprompt in
/-- One transition before its end the operation is in RESPOND with the value of R152. -/
theorem iterate_respond (hagenda : s.agenda = []) :
    ∃ n, transitionCount r.length = n + 2 ∧ (blockTransition^[n + 1] s).phase = .respond ∧
      (blockTransition^[n + 1] s).reqs = rest ∧
      (blockTransition^[n + 1] s).res = combineValue (tableRead s.table) r.crc1 r.crc2 r.length := by
  cases hl : lenNonPositive r.length
  case true =>
    refine ⟨0, by simp [transitionCount, hl], ?_⟩
    rw [Function.iterate_one, blockTransition_idle hready.idle]
    simp [doAccept, hreqs, hl, combineValue]
  case false =>
    obtain ⟨sel, matA, matB, e⟩ := iterate_engine hready hreqs hprompt hagenda hl
    refine ⟨5 + 3 * iterations r.length, by rw [transitionCount_of_pos hl]; omega, ?_⟩
    rw [Function.iterate_succ_apply', e, blockTransition_finish rfl, combineValue_of_pos hl,
      engineLoop_eq_matrixPower r.length.isLt]
    exact ⟨rfl, rfl, rfl⟩

end

/-- Settles O43: RELEASE is the last transition of the count, and before it the block is busy and silent. -/
theorem operationEndsExactly : Obligations.OperationEndsExactly := by
  intro s r rest hready hreqs hresponsive hagenda
  have halone : s.BlockAlone := ⟨hagenda, hready.rst⟩
  have hprompt : s.TablePrompt := ⟨hresponsive.accepts, hresponsive.answers⟩
  constructor
  · obtain ⟨n, hcount, hrespond, hrest, hres⟩ := iterate_respond hready hreqs hprompt hagenda
    obtain ⟨-, hresponses⟩ := iterate_inFlight hready hreqs hprompt (n := n) (by omega)
    have htakes := (iterate_sameSurroundings (n + 1) s).rspReady.trans hresponsive.takes
    refine ⟨_, run_of_blockAlone halone _, ?_⟩
    rw [hcount, Function.iterate_succ_apply', blockTransition_respond hrespond htakes, hresponses, hres]
    exact ⟨rfl, hrest, rfl⟩
  · intro n hn hlt
    obtain ⟨n, rfl⟩ := Nat.exists_eq_succ_of_ne_zero hn.ne'
    obtain ⟨hbusy, hresponses⟩ := iterate_inFlight hready hreqs hprompt hlt
    exact ⟨_, run_of_blockAlone halone _, (busy_iff _).2 ⟨hbusy, (halone.iterate _).rst⟩, hresponses⟩

end Sys2Proof.Machine
end

section
/-! PROOF. The initial odd matrix of a reflected table is the zero-nibble operator, and its square the zero-byte
operator (R122). -/

namespace Sys2Proof.Machine

/-- A matrix whose rows are the images of the basis vectors under a linear map is that map (R12). -/
theorem gf2Mult_eq_of_linear {m : BitMatrix} {f : Word → Word} (hzero : f 0 = 0)
    (hxor : ∀ u v, f (u ^^^ v) = f u ^^^ f v) (hrows : ∀ j, m.row j = f (1#32 <<< j.val)) (v : Word) :
    gf2Mult m v = f v := by
  have handBy (r : Word) (b : Bool) : andBy (f r) b = f (andBy r b) := by
    cases b
    case false => exact hzero.symm
    case true => rfl
  have hrow (i : Nat) : groupedRow m i = f (groupedRow identityMatrix i) := by
    unfold groupedRow
    split
    case isTrue => rw [hrows, identityMatrix, BitMatrix.row_ofRows]
    case isFalse => exact hzero.symm
  have hscan (n : Nat) : rowSum m v n = f (rowSum identityMatrix v n) := by
    induction n with
    | zero => exact hzero.symm
    | succ n ih => rw [rowSum, rowSum, ih, hrow, handBy, hxor]
  rw [gf2Mult_eq_rowSum, hscan, ← gf2Mult_eq_rowSum, gf2Mult_identityMatrix]

theorem crcShift_xor (poly u v : Word) : crcShift poly (u ^^^ v) = crcShift poly u ^^^ crcShift poly v := by
  rw [crcShift, crcShift, crcShift, BitVec.getLsbD_xor, andBy_xor, BitVec.ushiftRight_xor_distrib]
  ac_rfl

theorem crcShifts_xor (poly : Word) (n : Nat) (u v : Word) :
    crcShifts poly n (u ^^^ v) = crcShifts poly n u ^^^ crcShifts poly n v := by
  induction n generalizing u v with
  | zero => rfl
  | succ n ih => rw [crcShifts, crcShifts, crcShifts, crcShift_xor, ih]

theorem crcShifts_zero (poly : Word) (n : Nat) : crcShifts poly n 0 = 0 := by
  have hself := crcShifts_xor poly n 0 0
  rwa [BitVec.xor_self, BitVec.xor_self] at hself

theorem crcShifts_add (poly : Word) (a b : Nat) (v : Word) :
    crcShifts poly (a + b) v = crcShifts poly b (crcShifts poly a v) := by
  induction a generalizing v with
  | zero => rw [Nat.zero_add, crcShifts]
  | succ a ih => rw [Nat.succ_add, crcShifts, crcShifts, ih]

/-- While the set bit does not leave the register, a zero bit only shifts it. -/
theorem crcShift_basisVector (poly : Word) {j : Nat} (hj : j + 1 < 32) :
    crcShift poly (1#32 <<< (j + 1)) = 1#32 <<< j := by
  have hshift : crcShift poly (1#32 <<< (j + 1)) = (1#32 <<< (j + 1)) >>> 1 := by simp [crcShift]
  rw [hshift]
  apply BitVec.eq_of_getLsbD_eq
  intro i _
  rw [BitVec.getLsbD_ushiftRight, getLsbD_basisVector ⟨j + 1, hj⟩, getLsbD_basisVector ⟨j, by omega⟩]
  simp [Nat.add_comm 1 i]

theorem crcShifts_basisVector (poly : Word) {n j : Nat} (hj : j + n < 32) :
    crcShifts poly n (1#32 <<< (j + n)) = 1#32 <<< j := by
  induction n with
  | zero => rfl
  | succ n ih => rw [← Nat.add_assoc, crcShifts, crcShift_basisVector poly (by omega), ih (by omega)]

/-- Of the eight zero bits of table entry `16 << j`, four bring its set bit down to bit `j`. -/
theorem reflectedTable_seedIndex (poly : Word) {j : Nat} (hj : j < 4) :
    reflectedTable poly (16#8 <<< j) = crcShifts poly 4 (1#32 <<< j) := by
  have hentry : (16#8 <<< j).zeroExtend 32 = 1#32 <<< (j + 4) := by
    interval_cases j <;> rfl
  rw [reflectedTable, hentry, show 8 = 4 + 4 from rfl, crcShifts_add, crcShifts_basisVector poly (by omega)]

/-- The initial odd matrix of a polynomial's reflected table (R121, R122). -/
def reflectedOdd (poly : Word) : BitMatrix :=
  initialOdd (reflectedTable poly 16) (reflectedTable poly 32) (reflectedTable poly 64) (reflectedTable poly 128)

/-- Row `j` of it is bit `j` of the register with four zero bits appended: the seed rows by the table, the fixed rows
because four shifts do not reach the polynomial. -/
theorem row_reflectedOdd (poly : Word) (j : Fin 32) :
    (reflectedOdd poly).row j = crcShifts poly 4 (1#32 <<< j.val) := by
  by_cases hj : j.val < 4
  case pos =>
    obtain ⟨h0, h1, h2, h3⟩ :=
      row_initialOdd_seed (reflectedTable poly 16) (reflectedTable poly 32) (reflectedTable poly 64)
        (reflectedTable poly 128)
    rw [← reflectedTable_seedIndex poly hj]
    obtain rfl | rfl | rfl | rfl : j = 0 ∨ j = 1 ∨ j = 2 ∨ j = 3 := by omega
    exacts [h0, h1, h2, h3]
  case neg =>
    have hshift := crcShifts_basisVector poly (n := 4) (j := j.val - 4) (by omega)
    rw [Nat.sub_add_cancel (by omega)] at hshift
    rw [reflectedOdd, row_initialOdd_fixed _ _ _ _ (by omega), hshift, fixedRow]

theorem gf2Mult_reflectedOdd (poly v : Word) : gf2Mult (reflectedOdd poly) v = crcShifts poly 4 v :=
  gf2Mult_eq_of_linear (crcShifts_zero poly 4) (crcShifts_xor poly 4) (row_reflectedOdd poly) v

/-- Settles O49: both appending four zero bits and the matrix are linear and agree on the basis vectors, and the square
applies the matrix twice. -/
theorem initialOddIsZeroNibble : Obligations.InitialOddIsZeroNibble := fun poly v =>
  ⟨gf2Mult_reflectedOdd poly v,
    calc gf2Mult (gf2Square (reflectedOdd poly)) v
      _ = crcShifts poly 4 (crcShifts poly 4 v) := by
        rw [gf2Mult_gf2Square, gf2Mult_reflectedOdd, gf2Mult_reflectedOdd]
      _ = crcShifts poly 8 v := (crcShifts_add poly 4 4 v).symm⟩

end Sys2Proof.Machine
end

section
/-! PROOF. The combiner's own transitions, one at a time, the wait for the host, and the shortcut (R150, R151, R153 to
R155). -/

namespace Sys2Proof.Machine

theorem lenNonPositive_of_pos {n : Len} (h : 0 < n.toInt) : lenNonPositive n = false := by
  rw [lenNonPositive_eq_decide, decide_eq_false (not_le.2 h)]

theorem lenNonPositive_of_nonPos {n : Len} (h : n.toInt ≤ 0) : lenNonPositive n = true := by
  rw [lenNonPositive_eq_decide, decide_eq_true h]

theorem doAccept_of_nonPos {s : State} {r : Request} {rest : List Request} (hreqs : s.reqs = r :: rest)
    (hnonPos : lenNonPositive r.length = true) :
    doAccept s =
      { s with
        reqs := rest, acc := r.crc1, crc2R := r.crc2, lenR := r.length, k := 0, sel := false, tblDirty := false,
        res := r.crc1, phase := .respond } := by
  simp [doAccept, hreqs, hnonPos]

/-- Settles O23: the sign of the length says which of its two forms ACCEPT takes; the flag it leaves is `false`. -/
theorem acceptCompletes : Obligations.AcceptCompletes := fun _ _ _ hreqs =>
  ⟨false, fun hpos => congrArg Host.Outcome.next (doAccept_of_pos hreqs (lenNonPositive_of_pos hpos)),
    fun hnonPos => congrArg Host.Outcome.next (doAccept_of_nonPos hreqs (lenNonPositive_of_nonPos hnonPos))⟩

theorem doFinish_of_res {s : State} {v : Word} (h : s.acc ^^^ s.crc2R = v) :
    doFinish s = { s with res := v, phase := .respond } := by
  rw [doFinish, h]

/-- Settles O32: 0 is neutral on either side of the XOR. -/
theorem finishCompletes : Obligations.FinishCompletes := fun _ =>
  ⟨rfl, fun hcrc2 => congrArg Host.Outcome.next (doFinish_of_res (by rw [hcrc2]; exact BitVec.xor_zero)),
    fun hacc => congrArg Host.Outcome.next (doFinish_of_res (by rw [hacc]; exact BitVec.zero_xor))⟩

theorem doRelease_of_ready {s : State} (h : s.rspReady = true) :
    doRelease s = { s with phase := .idle, responses := s.responses ++ [s.res] } := if_pos h

theorem doRelease_of_not_ready {s : State} (h : s.rspReady = false) : doRelease s = s :=
  if_neg (Bool.eq_false_iff.1 h)

/-- Settles O33: a ready host takes RES. -/
theorem releaseCompletes : Obligations.ReleaseCompletes := fun _ h =>
  congrArg Host.Outcome.next (doRelease_of_ready h)

theorem blockTransition_respond_waits {s : State} (hp : s.phase = .respond) (hwaits : s.rspReady = false) :
    blockTransition s = s := by
  have hrelease : blockTransition s = doRelease s := by simp [blockTransition, transitionWith, hp]
  rw [hrelease, doRelease_of_not_ready hwaits]

/-- Settles O34: RESPOND without a ready host is a fixed point, and its outputs follow from PHASE and `rst`. -/
theorem respondWaits : Obligations.RespondWaits := by
  intro s u n hp hr hagenda hwaits
  have hvalid : s.rspValid = true := (rspValid_iff s).2 ⟨hp, hr⟩
  refine ⟨?_, hvalid, if_pos hvalid, by simp [State.reqReady, hp]⟩
  rw [run_of_blockAlone ⟨hagenda, hr⟩, Function.iterate_fixed (blockTransition_respond_waits hp hwaits)]

/-- Settles O44: ACCEPT goes to RESPOND with RES = `crc1`, and RELEASE hands it over. -/
theorem shortcutReturnsCrc1 : Obligations.ShortcutReturnsCrc1 := by
  intro s r rest hready hreqs htakes hagenda hnonPos
  have haccept := (blockTransition_idle hready.idle).trans
    (doAccept_of_nonPos hreqs (lenNonPositive_of_nonPos hnonPos))
  rw [run_of_blockAlone ⟨hagenda, hready.rst⟩, Function.iterate_succ_apply, Function.iterate_one, haccept]
  exact congrArg Host.Outcome.next (blockTransition_respond rfl htakes)

end Sys2Proof.Machine
end

section
/-! PROOF. The value of COMBINE in closed form, and what the closed form says of empty streams and of three streams
(R126, R152, R157). -/

namespace Sys2Proof.Machine

theorem matrixPower_xor (m : BitMatrix) (n : Nat) (u v : Word) :
    matrixPower m n (u ^^^ v) = matrixPower m n u ^^^ matrixPower m n v := by
  induction n with
  | zero => rfl
  | succ n ih => rw [matrixPower, matrixPower, matrixPower, ih, gf2Mult_xor]

theorem matrixPower_zero (m : BitMatrix) (n : Nat) : matrixPower m n 0 = 0 := by
  induction n with
  | zero => rfl
  | succ n ih => rw [matrixPower, ih, gf2Mult_zero]

/-- The initial odd matrix of the four entries that the block reads, from a table given as a function (R52, R121). -/
def initialOddAt (tab : TableIndex → Word) : BitMatrix := initialOdd (tab 16) (tab 32) (tab 64) (tab 128)

theorem combineValue_of_nonPos {n : Len} (tab : TableIndex → Word) (c d : Word) (h : lenNonPositive n = true) :
    combineValue tab c d n = c := if_pos h

/-- The value of R152 for a positive length, by the closed form of the engine (R126). -/
theorem combineValue_eq_matrixPower {n : Len} (tab : TableIndex → Word) (c d : Word) (h : lenNonPositive n = false) :
    combineValue tab c d n = matrixPower (initialOddAt tab) (2 * n.toNat) c ^^^ d := by
  have hengine : engine (tab 16) (tab 32) (tab 64) (tab 128) c n = matrixPower (initialOddAt tab) (2 * n.toNat) c :=
    engineLoop_eq_matrixPower n.isLt
  rw [combineValue, if_neg (Bool.eq_false_iff.1 h), hengine]

/-- The closed form holds for the length 0 too when the second stream, then empty, has the checksum 0. -/
theorem combineValue_eq_matrixPower_of_empty {n : Len} (tab : TableIndex → Word) (c : Word) {d : Word}
    (hn : 0 ≤ n.toInt) (hd : n = 0 → d = 0) :
    combineValue tab c d n = matrixPower (initialOddAt tab) (2 * n.toNat) c ^^^ d := by
  cases hl : lenNonPositive n
  case false => exact combineValue_eq_matrixPower tab c d hl
  case true =>
    rw [lenNonPositive_eq_decide, decide_eq_true_eq] at hl
    obtain rfl : n = 0 := BitVec.eq_of_toInt_eq (le_antisymm hl hn)
    rw [combineValue_of_nonPos tab c d rfl, hd rfl]
    exact BitVec.xor_zero.symm

/-- Settles O52: no power of a matrix moves the 0. -/
theorem emptyStreams : Obligations.EmptyStreams := fun tab crc1 crc2 length =>
  ⟨fun hnonPos => combineValue_of_nonPos tab crc1 crc2 (lenNonPositive_of_nonPos hnonPos), fun hpos => by
    rw [combineValue_eq_matrixPower tab 0 crc2 (lenNonPositive_of_pos hpos), matrixPower_zero]
    exact BitVec.zero_xor⟩

/-- Settles O51: the operator of C's length is linear, and applied after that of B's length it is the operator of the
sum; an empty C changes neither side. -/
theorem combineAssociative : Obligations.CombineAssociative := by
  intro tab a b c lenB lenC hB hC hsum hempty
  cases hl : lenNonPositive lenC
  case true =>
    rw [lenNonPositive_eq_decide, decide_eq_true_eq] at hl
    obtain rfl : lenC = 0 := BitVec.eq_of_toInt_eq (le_antisymm hl hC)
    rw [combineValue_of_nonPos tab _ c rfl, combineValue_of_nonPos tab b c rfl]
    exact congrArg (combineValue tab a b) (BitVec.add_zero (x := lenB)).symm
  case false =>
    obtain ⟨hposC, hltC⟩ := (lenNonPositive_eq_false_iff lenC).1 hl
    have hlt : lenB.toNat + lenC.toNat < 2 ^ 63 := by
      simp only [BitVec.toInt_eq_toNat_cond] at hB hsum
      omega
    have hadd : (lenB + lenC).toNat = lenB.toNat + lenC.toNat := by
      rw [BitVec.toNat_add, Nat.mod_eq_of_lt (by omega)]
    have hposBC : lenNonPositive (lenB + lenC) = false :=
      (lenNonPositive_eq_false_iff _).2 (by omega)
    rw [combineValue_eq_matrixPower tab _ _ hl, combineValue_eq_matrixPower_of_empty tab a hB hempty,
      combineValue_eq_matrixPower tab a _ hposBC, combineValue_eq_matrixPower tab b c hl, matrixPower_xor,
      ← matrixPower_add, hadd, Nat.mul_add, Nat.add_comm (2 * lenC.toNat), BitVec.xor_assoc]

end Sys2Proof.Machine
end

section
/-! PROOF. COMBINE from a state that can accept, with both agents responsive: its answer, and the transitions it is made
of (R127, R152). -/

namespace Sys2Proof.Machine

/-- Settles O41: the answer is that of the operation that COMBINE runs, and its value has the closed form. -/
theorem combineCompletes : Obligations.CombineCompletes := by
  intro s crc1 crc2 length hready hreqs hresp
  refine ⟨⟨_, rfl, ?_⟩,
    fun hnonPos => combineValue_of_nonPos _ crc1 crc2 (lenNonPositive_of_nonPos hnonPos),
    fun hpos => combineValue_eq_matrixPower _ crc1 crc2 (lenNonPositive_of_pos hpos)⟩
  obtain ⟨_, _, _, _, _, _, e⟩ := runFromAccept_responsive (requestOf crc1 crc2 length) hready hreqs hresp
  rw [doCombine_responsive _ hready hreqs hresp, e]
  refine ⟨rfl, rfl, ?_, rfl, rfl, rfl, rfl, rfl, rfl, rfl, rfl, rfl, rfl, rfl⟩
  simp [requestOf, lenNonPositive_eq_decide]

/-! ### The run of transitions -/

/-- The one-step run starts with the transitions before RELEASE, and goes on from there with the fuel that is left. -/
theorem runOperation_add {s : State} (hprompt : s.TablePrompt) {n : Nat} (h : n < s.transitionsLeft) (m : Nat) :
    runOperation (n + m) s = runOperation m (blockTransition^[n] s) := by
  induction n generalizing s with
  | zero => rw [Nat.zero_add, Function.iterate_zero_apply]
  | succ n ih =>
    have hnext := transitionsLeft_blockTransition hprompt (by omega)
    rw [Nat.succ_add, runOperation_of_busy _ (phase_ne_idle_of_transitionsLeft (by omega))]
    exact ih (iterate_tablePrompt hprompt 1) (by omega)

theorem iterations_pos (n : Len) : 0 < iterations n := Nat.succ_pos _

/-- RESPOND is the only phase with one transition left. -/
theorem phase_respond_of_transitionsLeft {s : State} (h : s.transitionsLeft = 1) : s.phase = .respond := by
  have hpos := iterations_pos s.lenR
  have hk := s.k.isLt
  cases hp : s.phase <;> simp only [State.transitionsLeft, hp] at h ⊢ <;> omega

/-- With both agents responsive, the one-step run is exactly the transitions left (R152). -/
theorem runOperation_of_responsive {s : State} (hresp : s.Responsive) {n : Nat} (hpos : 0 < s.transitionsLeft)
    (hfuel : s.transitionsLeft ≤ n) : runOperation n s = blockTransition^[s.transitionsLeft] s := by
  obtain ⟨haccepts, hanswers, htakes⟩ := hresp
  obtain ⟨m, hm⟩ := Nat.exists_eq_add_of_lt hpos
  obtain ⟨j, rfl⟩ := Nat.exists_eq_add_of_le hfuel
  rw [Nat.zero_add] at hm
  obtain ⟨hleft, -⟩ := iterate_transitionsLeft ⟨haccepts, hanswers⟩ (show m < s.transitionsLeft by omega)
  have hrespond : (blockTransition^[m] s).phase = .respond := phase_respond_of_transitionsLeft (by omega)
  have hready := (iterate_sameSurroundings m s).rspReady.trans htakes
  rw [hm, Nat.add_assoc, Nat.add_comm 1 j, runOperation_add ⟨haccepts, hanswers⟩ (by omega),
    runOperation_respond j hrespond hready, Function.iterate_succ_apply', blockTransition_respond hrespond hready]

/-- No operation takes more transitions than a length of `LEN_WIDTH` bits allows (R127). -/
theorem transitionCount_le_maxTransitions (n : Len) : transitionCount n ≤ Config.maxTransitions := by
  cases hl : lenNonPositive n
  case true => simp [transitionCount, hl, Config.maxTransitions, Config.lenWidth]
  case false =>
    obtain ⟨hpos, hlt⟩ := (lenNonPositive_eq_false_iff n).1 hl
    have hlog : Nat.log2 n.toNat < 63 := (Nat.log2_lt hpos.ne').2 hlt
    rw [transitionCount_of_pos hl, iterations, Config.maxTransitions, Config.lenWidth]
    omega

/-- With no other agent to move, the state COMBINE runs from is the one after ACCEPT. -/
theorem blockTransition_offer {s : State} (r : Request) (hready : s.Ready) (hreqs : s.reqs = [])
    (hagenda : s.agenda = []) : blockTransition (s.offer r) = s.accepted r := by
  rw [blockTransition_idle (s := s.offer r) hready.idle]
  simp [doAccept, State.offer, State.accepted, hready.pend, hreqs, hagenda]

/-- COMBINE makes the transitions of the count from the state with its request offered: ACCEPT is the first, and the
one-step run makes the others. -/
theorem doCombine_eq_iterate {s : State} (r : Request) (hready : s.Ready) (hreqs : s.reqs = [])
    (hresp : s.Responsive) (hagenda : s.agenda = []) :
    doCombine r s = blockTransition^[transitionCount r.length] (s.offer r) := by
  have haccept := blockTransition_offer r hready hreqs hagenda
  have hcount : (s.accepted r).transitionsLeft + 1 = transitionCount r.length := by
    rw [← haccept]
    exact transitionsLeft_accept (s := s.offer r) (rest := []) ⟨hready.idle, hready.rst, hready.pend⟩ (by simp [hreqs])
  have hmax : transitionCount r.length ≤ 196 := transitionCount_le_maxTransitions r.length
  have hresp' : (s.accepted r).Responsive := ⟨hresp.accepts, hresp.answers, hresp.takes⟩
  have hmin : 2 ≤ transitionCount r.length := by unfold transitionCount; split <;> omega
  have hkeeps : (runFromAccept false (s.offer r)).agenda = s.agenda :=
    (runFromAccept_sameSurroundings false (s.offer r)).agenda.trans hagenda.symm
  calc doCombine r s
    _ = runFromAccept false (s.offer r) := by rw [doCombine_responsive r hready hreqs hresp, ← hkeeps]
    _ = runOperation 195 (s.accepted r) := runFromAccept_offer r hready.pend hreqs
    _ = blockTransition^[(s.accepted r).transitionsLeft] (s.accepted r) :=
      runOperation_of_responsive hresp' (by omega) (by omega)
    _ = blockTransition^[transitionCount r.length] (s.offer r) := by
      rw [← hcount, Function.iterate_succ_apply, haccept]

/-- Settles O42: with only the block to move, steps are transitions. -/
theorem combineEqualsItsTransitions : Obligations.CombineEqualsItsTransitions := by
  intro s crc1 crc2 length hready hreqs hresp hagenda
  have hoffer : { s with reqs := [⟨crc1, crc2, length⟩] } = s.offer (requestOf crc1 crc2 length) := by
    simp [State.offer, requestOf, hreqs]
  rw [hoffer, run_of_blockAlone (s := s.offer _) ⟨hagenda, hready.rst⟩]
  exact congrArg Host.Outcome.next (doCombine_eq_iterate _ hready hreqs hresp hagenda)

end Sys2Proof.Machine
end

section
/-! PROOF. COMBINE of two checksums is the checksum of the two streams joined (R156). -/

namespace Sys2Proof.Machine

/-- The power `n` of the zero-nibble operator appends `n` nibbles of zeros (R122). -/
theorem matrixPower_reflectedOdd (poly : Word) (n : Nat) (v : Word) :
    matrixPower (reflectedOdd poly) n v = crcShifts poly (4 * n) v := by
  induction n generalizing v with
  | zero => rfl
  | succ n ih => rw [matrixPower, ih, gf2Mult_reflectedOdd, ← crcShifts_add, Nat.mul_succ]

/-- Appending a stream to a register is linear in the register, apart from what the stream adds (G2): a difference in the
register moves as if zero bytes were appended. -/
theorem foldl_crcByte_xor (poly : Word) (bytes : List Byte) (u v : Word) :
    bytes.foldl (crcByte poly) (u ^^^ v) =
      crcShifts poly (8 * bytes.length) u ^^^ bytes.foldl (crcByte poly) v := by
  induction bytes generalizing u v with
  | nil => rfl
  | cons b bytes ih =>
    have hbyte : crcByte poly (u ^^^ v) b = crcShifts poly 8 u ^^^ crcByte poly v b := by
      rw [crcByte, crcByte, BitVec.xor_assoc, crcShifts_xor]
    rw [List.foldl_cons, List.foldl_cons, hbyte, ih, ← crcShifts_add, List.length_cons, Nat.mul_succ, Nat.add_comm]

/-- The checksum of a joined stream: that of the first with zero bytes appended for the second, XOR that of the second. -/
theorem crc32_append (poly : Word) (a b : List Byte) :
    crc32 poly (a ++ b) = crcShifts poly (8 * b.length) (crc32 poly a) ^^^ crc32 poly b := by
  have hregister : a.foldl (crcByte poly) 0xFFFFFFFF = crc32 poly a ^^^ 0xFFFFFFFF := by
    rw [crc32, BitVec.xor_assoc, BitVec.xor_self, BitVec.xor_zero]
  rw [crc32, List.foldl_append, hregister, foldl_crcByte_xor, BitVec.xor_assoc, ← crc32]

theorem crc32_nil (poly : Word) : crc32 poly [] = 0 := by
  rw [crc32, List.foldl_nil, BitVec.xor_self]
  rfl

theorem toNat_lengthOf {bytes : List Byte} (h : bytes.length < 2 ^ 63) : (lengthOf bytes).toNat = bytes.length :=
  (BitVec.toNat_ofNat _ _).trans (Nat.mod_eq_of_lt (by omega))

/-- Over a table with the four entries of a polynomial's reflected table, the value of R152 joins two checksums. -/
theorem combineValue_crc32 {tab : TableIndex → Word} {poly : Word}
    (htab : ∀ i, i = 16 ∨ i = 32 ∨ i = 64 ∨ i = 128 → tab i = reflectedTable poly i) (a : List Byte) {b : List Byte}
    (hb : b.length < 2 ^ 63) :
    combineValue tab (crc32 poly a) (crc32 poly b) (lengthOf b) = crc32 poly (a ++ b) := by
  have hlength := toNat_lengthOf hb
  have hnonneg : 0 ≤ (lengthOf b).toInt := by rw [BitVec.toInt_eq_toNat_cond]; omega
  have hempty : lengthOf b = 0 → crc32 poly b = 0 := fun h => by
    have hnil : b.length = 0 := by rw [← hlength, h]; rfl
    rw [List.length_eq_zero_iff.1 hnil, crc32_nil]
  rw [combineValue_congr htab, combineValue_eq_matrixPower_of_empty _ _ hnonneg hempty, hlength]
  calc matrixPower (reflectedOdd poly) (2 * b.length) (crc32 poly a) ^^^ crc32 poly b
    _ = crcShifts poly (8 * b.length) (crc32 poly a) ^^^ crc32 poly b := by
      rw [matrixPower_reflectedOdd, ← Nat.mul_assoc]
    _ = crc32 poly (a ++ b) := (crc32_append poly a b).symm

/-- Settles O50: the one response of COMBINE is the value of R152. -/
theorem combineIsCrcOfConcatenation : Obligations.CombineIsCrcOfConcatenation := by
  intro s poly a b hready hreqs hresp hentries hb
  obtain ⟨⟨t, hexec, -, hresponses, -⟩, -⟩ :=
    combineCompletes s (crc32 poly a) (crc32 poly b) (lengthOf b) hready hreqs hresp
  exact ⟨t, hexec, by rw [hresponses, combineValue_crc32 hentries a hb]⟩

end Sys2Proof.Machine
end

section
/-! PROOF. COMBINE where the block accepts and an agent does not respond: where its operation stops, and what it holds
there (R61, R129, R152, R154). -/

namespace Sys2Proof.Machine

/-! ### The operation that COMBINE runs, settled or not -/

/-- The state after ACCEPT, as COMBINE runs it, of an operation whose words are draws or not. -/
def State.acceptedAs (s : State) (unsettled : Bool) (r : Request) : State :=
  { s.accepted r with tblDirty := unsettled }

theorem runFromAccept_eq_runOperation {s : State} (unsettled : Bool) (r : Request) (hpend : s.tblPend = false)
    (hreqs : s.reqs = []) : runFromAccept unsettled (s.offer r) = runOperation 195 (s.acceptedAs unsettled r) := by
  simp [runFromAccept, doAccept, State.offer, State.acceptedAs, State.accepted, hpend, hreqs, Config.maxTransitions,
    Config.lenWidth]

theorem phase_acceptedAs_of_pos {s : State} (unsettled : Bool) {r : Request} (hpos : lenNonPositive r.length = false) :
    (s.acceptedAs unsettled r).phase = .seed := by
  simp [State.acceptedAs, State.accepted, hpos]

theorem phase_acceptedAs_of_nonPos {s : State} (unsettled : Bool) {r : Request}
    (hnonPos : lenNonPositive r.length = true) : (s.acceptedAs unsettled r).phase = .respond := by
  simp [State.acceptedAs, State.accepted, hnonPos]

theorem phase_acceptedAs_ne_idle (s : State) (unsettled : Bool) (r : Request) :
    (s.acceptedAs unsettled r).phase ≠ .idle := by
  cases hl : lenNonPositive r.length
  · simp [phase_acceptedAs_of_pos unsettled hl]
  · simp [phase_acceptedAs_of_nonPos unsettled hl]

/-- An operation's course does not depend on the words it reads, run as one step either. -/
theorem runOperation_sameCourse (n : Nat) {s t : State} (hp : s.phase ≠ .idle) (h : SameCourse s t) :
    SameCourse (runOperation n s) (runOperation n t) := by
  induction n generalizing s t with
  | zero => exact h
  | succ n ih =>
    have hnext : SameCourse (blockTransition s) (blockTransition t) := by
      rw [blockTransition_eq, blockTransition_eq]
      exact transitionWith_sameCourse _ _ _ _ hp h
    by_cases hidle : (blockTransition s).phase = .idle
    case pos => rwa [runOperation_of_idle n hidle, runOperation_of_idle n (hnext.phase ▸ hidle)]
    case neg =>
      rw [runOperation_of_busy n hidle, runOperation_of_busy n (hnext.phase ▸ hidle)]
      exact ih hidle hnext

/-- So a change of a read entry to come is seen alike after either run. -/
theorem changesInFlight_runFromAccept (l l' : List Move) (unsettled : Bool) {s : State} (r : Request)
    (hpend : s.tblPend = false) (hreqs : s.reqs = []) :
    changesInFlight l { runFromAccept unsettled (s.offer r) with agenda := l' } =
      changesInFlight l (runFromAccept false (s.offer r)) := by
  have htable (u : Bool) : (runFromAccept u (s.offer r)).table = s.table :=
    (runFromAccept_sameSurroundings u (s.offer r)).table
  have hstart : SameCourse (s.acceptedAs unsettled r) (s.acceptedAs false r) := by constructor <;> rfl
  have hcourse := runOperation_sameCourse 195 (phase_acceptedAs_ne_idle s unsettled r) hstart
  rw [← runFromAccept_eq_runOperation unsettled r hpend hreqs,
    ← runFromAccept_eq_runOperation false r hpend hreqs] at hcourse
  obtain ⟨hphase, hk, hpend', hlen, hrst, hrspReady, htblReqReady, htblAnswers⟩ := hcourse
  exact changesInFlight_congr l ⟨hphase, hk, hpend', hlen, hrst, hrspReady, htblReqReady, htblAnswers⟩
    fun m => by rw [htable, htable]

theorem ite_runFromAccept (unsettled : Bool) (s : State) :
    (if unsettled then runFromAccept true s else runFromAccept false s) = runFromAccept unsettled s := by
  cases unsettled
  case false => exact if_neg Bool.false_ne_true
  case true => exact if_pos rfl

/-- Where the block can accept, COMBINE runs the operation as unsettled exactly if a change of a read entry is to come
after it (R61). -/
theorem doCombine_of_ready {s : State} (r : Request) (hready : s.Ready) (hreqs : s.reqs = []) :
    ∃ unsettled, changesInFlight s.agenda (doCombine r s) = unsettled ∧
      doCombine r s = { runOperation 195 (s.acceptedAs unsettled r) with agenda := s.agenda } := by
  have hcan : (s.reqReady && s.reqs.isEmpty) = true := by simp [State.reqReady, hready.idle, hready.rst, hreqs]
  have hrun : doCombine r s =
      { runFromAccept (changesInFlight s.agenda (runFromAccept false (s.offer r))) (s.offer r) with
        agenda := s.agenda } := by
    simp only [doCombine, hcan, if_true, ite_runFromAccept]
  refine ⟨changesInFlight s.agenda (runFromAccept false (s.offer r)), ?_, ?_⟩
  · rw [hrun, changesInFlight_runFromAccept _ _ _ r hready.pend hreqs]
  · rw [← runFromAccept_eq_runOperation _ r hready.pend hreqs, hrun]

/-! ### Where it stops -/

theorem runOperation_of_fixed {s : State} (n : Nat) (hp : s.phase ≠ .idle) (h : blockTransition s = s) :
    runOperation n s = s := by
  induction n with
  | zero => rfl
  | succ n ih => rw [runOperation_of_busy n (by rwa [h]), h, ih]

theorem runOperation_respond_waits {s : State} (n : Nat) (hp : s.phase = .respond) (hwaits : s.rspReady = false) :
    runOperation n s = s :=
  runOperation_of_fixed n (by simp [hp]) (blockTransition_respond_waits hp hwaits)

theorem runOperation_seed_offered {s : State} (n : Nat) (hp : s.phase = .seed) (hpend : s.tblPend = false)
    (hready : s.tblReqReady = false) : runOperation n s = s :=
  runOperation_of_fixed n (by simp [hp])
    ((blockTransition_eq_seedWith hp).trans (seedWith_of_offered _ _ hpend hready))

theorem runOperation_seed_issued {s : State} (n : Nat) (hp : s.phase = .seed) (hpend : s.tblPend = false)
    (hready : s.tblReqReady = true) (hans : s.tblAnswers = false) : runOperation (n + 1) s = s.issueRead := by
  have hissue : blockTransition s = s.issueRead :=
    (blockTransition_eq_seedWith hp).trans (seedWith_of_issued _ _ hpend hready hans)
  have hwaits : blockTransition s.issueRead = s.issueRead :=
    (blockTransition_eq_seedWith (s := s.issueRead) hp).trans (seedWith_of_outstanding _ _ rfl hans)
  have hbusy : s.issueRead.phase ≠ .idle := by simp [hp]
  rw [runOperation_of_busy n (by rwa [hissue]), hissue, runOperation_of_fixed n hbusy hwaits]

/-! ### The four SEED transitions of a settled or an unsettled operation -/

/-- `t` is `s` with ODD seeded to the matrix `m`, at the cost of `drawn` free values (R120, R121). -/
structure SeededWith (m : BitMatrix) (drawn : Nat) (s t : State) : Prop where
  phase : t.phase = .square
  odd : t.odd = m
  acc : t.acc = s.acc
  crc2R : t.crc2R = s.crc2R
  lenR : t.lenR = s.lenR
  reqs : t.reqs = s.reqs
  responses : t.responses = s.responses
  reads : t.reads = s.reads ++ [16, 32, 64, 128]
  draws : t.draws = s.draws + drawn

theorem iterate_seed_settled {s : State} (h : s.SeedsSettled) (hk : s.k = 0) :
    SeededWith (initialOddOf s.table) 0 s (blockTransition^[4] s) := by
  rw [iterate_seed h hk]
  exact ⟨rfl, odd_seeded s, rfl, rfl, rfl, rfl, rfl, rfl, rfl⟩

/-- The initial odd matrix of the next four free values (R61). -/
def drawnOdd (n : Nat) : BitMatrix :=
  initialOdd (Config.tableDraw n) (Config.tableDraw (n + 1)) (Config.tableDraw (n + 2)) (Config.tableDraw (n + 3))

/-- With only the block to move, the SEED transitions of an unsettled operation take one free value each. -/
theorem iterate_seedsUnsettled {n : Nat} {s : State} (h : s.SeedsUnsettled n) (hagenda : s.agenda = []) :
    blockTransition^[n] s = State.drawTaken^[n] s := by
  induction n generalizing s with
  | zero => rfl
  | succ n ih =>
    have hsame : s.offAgenda = s := by simp only [State.offAgenda, hagenda, List.tail_nil]; rw [← hagenda]
    have hfirst : blockTransition s = s.drawTaken := by
      rw [← blockTransition_seedsUnsettled h, hsame]
    have htail : s.drawTaken.agenda = [] := by simp [State.drawTaken, State.readRecorded, hagenda]
    rw [Function.iterate_succ_apply, Function.iterate_succ_apply, hfirst]
    cases n with
    | zero => rfl
    | succ n => exact ih (drawTaken_seedsUnsettled h) htail

/-- The free values taken leave the request latched in ACC, CRC2_R and LEN_R, and the host's side, alone. -/
theorem iterate_drawTaken_frame (n : Nat) (s : State) :
    (State.drawTaken^[n] s).acc = s.acc ∧ (State.drawTaken^[n] s).crc2R = s.crc2R ∧
      (State.drawTaken^[n] s).lenR = s.lenR ∧ (State.drawTaken^[n] s).reqs = s.reqs ∧
      (State.drawTaken^[n] s).responses = s.responses := by
  induction n with
  | zero => exact ⟨rfl, rfl, rfl, rfl, rfl⟩
  | succ n ih =>
    rw [Function.iterate_succ_apply']
    simpa [State.drawTaken, State.readRecorded, State.offAgenda] using ih

theorem iterate_seed_drawn {s : State} (h : s.SeedsUnsettled 4) (hk : s.k = 0) (hagenda : s.agenda = []) :
    SeededWith (drawnOdd s.draws) 4 s (blockTransition^[4] s) := by
  obtain ⟨t, hrun, hphase, hdraws, hreads, hodd⟩ :=
    allFourWordsDrawn s h.phase hk h.tblPend h.rst h.prompt h.unsettled (.inl hagenda)
  have ht : blockTransition^[4] s = t := Host.Outcome.next.inj ((run_of_blockAlone ⟨hagenda, h.rst⟩ 4).symm.trans hrun)
  obtain ⟨hacc, hcrc2, hlen, hreqs, hresponses⟩ := iterate_drawTaken_frame 4 s
  rw [← iterate_seedsUnsettled h hagenda, ht] at hacc hcrc2 hlen hreqs hresponses
  rw [ht]
  exact ⟨hphase, hodd, hacc, hcrc2, hlen, hreqs, hresponses, hreads, hdraws⟩

/-! ### From SQUARE to RESPOND -/

/-- `t` waits in RESPOND with the result `v` of the operation of `s`, at the cost of `drawn` free values (R154). -/
structure HoldsResult (v : Word) (drawn : Nat) (s t : State) : Prop where
  phase : t.phase = .respond
  res : t.res = v
  reqs : t.reqs = s.reqs
  responses : t.responses = s.responses
  reads : t.reads = s.reads ++ [16, 32, 64, 128]
  draws : t.draws = s.draws + drawn

/-- The loop and FINISH form the result of a seeded engine (R126, R153). -/
theorem iterate_square_holdsResult {m : BitMatrix} {drawn : Nat} {s t : State} (h : SeededWith m drawn s t) :
    HoldsResult (matrixPower m (2 * s.lenR.toNat) s.acc ^^^ s.crc2R) drawn s
      (blockTransition^[3 * iterations s.lenR + 1] t) := by
  obtain ⟨sel, matA, matB, e⟩ := iterate_loop h.phase
  rw [h.odd, h.lenR, h.acc] at e
  rw [Function.iterate_succ_apply', e, blockTransition_finish rfl]
  exact ⟨rfl, congrArg (_ ^^^ ·) h.crc2R, h.reqs, h.responses, h.reads, h.draws⟩

/-- With a prompt table agent and a host that is not ready, the operation runs from SEED to RESPOND and stops there. -/
theorem runOperation_holdsResult {m : BitMatrix} {drawn : Nat} {s : State} (hp : s.phase = .seed) (hk : s.k = 0)
    (hprompt : s.TablePrompt) (hwaits : s.rspReady = false) (hpos : lenNonPositive s.lenR = false)
    (hseeded : SeededWith m drawn s (blockTransition^[4] s)) :
    HoldsResult (matrixPower m (2 * s.lenR.toNat) s.acc ^^^ s.crc2R) drawn s (runOperation 195 s) := by
  have hheld := iterate_square_holdsResult hseeded
  rw [← Function.iterate_add_apply] at hheld
  have hleft : s.transitionsLeft = 6 + 3 * iterations s.lenR := by simp [State.transitionsLeft, hp, hk]
  have hmax : transitionCount s.lenR ≤ 196 := transitionCount_le_maxTransitions s.lenR
  rw [transitionCount_of_pos hpos] at hmax
  obtain ⟨j, hfuel⟩ := Nat.exists_eq_add_of_le (show 3 * iterations s.lenR + 1 + 4 ≤ 195 by omega)
  rwa [hfuel, runOperation_add hprompt (by omega),
    runOperation_respond_waits j hheld.phase ((iterate_sameSurroundings _ s).rspReady.trans hwaits)]

section
variable {s : State} {r : Request} (hprompt : s.TablePrompt) (hwaits : s.rspReady = false)
  (hpos : lenNonPositive r.length = false)

include hprompt hwaits hpos in
/-- Settled, the result is the value of R152. -/
theorem holdsResult_settled :
    HoldsResult (combineValue (tableRead s.table) r.crc1 r.crc2 r.length) 0 (s.acceptedAs false r)
      (runOperation 195 (s.acceptedAs false r)) := by
  have hp := phase_acceptedAs_of_pos (s := s) false hpos
  have hprompt' : (s.acceptedAs false r).TablePrompt := ⟨hprompt.accepts, hprompt.answers⟩
  rw [combineValue_eq_matrixPower _ _ _ hpos]
  exact runOperation_holdsResult hp rfl hprompt' hwaits hpos
    (iterate_seed_settled ⟨hp, rfl, hprompt', rfl, rfl⟩ rfl)

include hprompt hwaits hpos in
/-- Unsettled, it is that of the engine with four free values in the place of the entries (R61). -/
theorem holdsResult_unsettled (hr : s.rst = false) :
    HoldsResult
      (engine (Config.tableDraw s.draws) (Config.tableDraw (s.draws + 1)) (Config.tableDraw (s.draws + 2))
        (Config.tableDraw (s.draws + 3)) r.crc1 r.length ^^^ r.crc2)
      4 (s.acceptedAs true r) (runOperation 195 (s.acceptedAs true r)) := by
  have hp := phase_acceptedAs_of_pos (s := s) true hpos
  have hprompt' : (s.acceptedAs true r).TablePrompt := ⟨hprompt.accepts, hprompt.answers⟩
  have hvalue : engine (Config.tableDraw s.draws) (Config.tableDraw (s.draws + 1)) (Config.tableDraw (s.draws + 2))
      (Config.tableDraw (s.draws + 3)) r.crc1 r.length = matrixPower (drawnOdd s.draws) (2 * r.length.toNat) r.crc1 :=
    engineLoop_eq_matrixPower r.length.isLt
  rw [hvalue]
  exact runOperation_holdsResult hp rfl hprompt' hwaits hpos
    (iterate_seed_drawn ⟨hp, rfl, hr, hprompt', rfl, rfl, .inl rfl⟩ rfl rfl)

end

/-- Settles O58: on the shortcut the operation stops at once in RESPOND, without an answer in its first SEED, and
otherwise in RESPOND with the result of the entries or, unsettled, of four free values. -/
theorem combineStalls : Obligations.CombineStalls := by
  intro s crc1 crc2 length hready hreqs
  obtain ⟨unsettled, hchanges, e⟩ := doCombine_of_ready (requestOf crc1 crc2 length) hready hreqs
  have hseed (hpos : 0 < length.toInt) : (s.acceptedAs unsettled (requestOf crc1 crc2 length)).phase = .seed :=
    phase_acceptedAs_of_pos unsettled (lenNonPositive_of_pos hpos)
  refine ⟨fun hnonPos hwaits => ⟨_, rfl, ?_⟩, fun hpos hreq => ⟨_, rfl, ?_⟩, fun hpos hreq hans => ⟨_, rfl, ?_⟩,
    fun hpos hprompt hwaits => ⟨_, rfl, ?_⟩⟩
  · have hl := lenNonPositive_of_nonPos hnonPos
    have hp := phase_acceptedAs_of_nonPos (s := s) (r := requestOf crc1 crc2 length) unsettled hl
    rw [e, runOperation_respond_waits 195 hp hwaits]
    exact ⟨hp, if_pos hl, rfl, rfl, rfl, rfl⟩
  · have hp := hseed hpos
    rw [e, runOperation_seed_offered 195 hp rfl hreq]
    exact ⟨hp, rfl, rfl, rfl, rfl, rfl, rfl, rfl, rfl, rfl⟩
  · have hp := hseed hpos
    rw [e, runOperation_seed_issued 194 hp rfl hreq hans]
    exact ⟨hp, rfl, rfl, rfl, rfl, rfl, rfl, rfl, rfl, rfl⟩
  · have htable := (doCombine_sameSurroundings (requestOf crc1 crc2 length) s).table
    have hl := lenNonPositive_of_pos hpos
    rw [hchanges, htable]
    cases unsettled
    case false =>
      obtain ⟨hp, hres, hreqs', hresponses, hreads, hdraws⟩ :=
        holdsResult_settled (r := requestOf crc1 crc2 length) hprompt hwaits hl
      rw [e]
      exact ⟨hp, hresponses, hreads, hreqs', rfl, rfl, fun _ => ⟨hres, hdraws⟩, nofun⟩
    case true =>
      obtain ⟨hp, hres, hreqs', hresponses, hreads, hdraws⟩ :=
        holdsResult_unsettled (r := requestOf crc1 crc2 length) hprompt hwaits hl hready.rst
      rw [e]
      exact ⟨hp, hresponses, hreads, hreqs', rfl, rfl, nofun, fun _ => ⟨hres, hdraws⟩⟩

end Sys2Proof.Machine
end

section
/-! PROOF. No step stops, no two transfers share an edge, and COMBINE waits where it cannot be accepted (R200, R206). -/

namespace Sys2Proof.Machine

/-! ### No step stops -/

/-- Each instruction has a meaning, and none can fail (R200). -/
theorem exec_completes (i : Instr) (s : State) : ∃ t, exec i s = .next t := by
  cases i <;> exact ⟨_, rfl⟩

/-- PHASE never holds the reserved code, so the block's turn does not stop; COMBINE completes, and what another agent
drives or writes cannot fail. -/
theorem moveTurn_completes (m : Move) (s : State) : ∃ t, moveTurn m s = .next t := by
  cases m
  case block => exact ⟨_, blockTurn_eq s⟩
  case command w => exact exec_completes (decodeReq w) s
  all_goals exact ⟨_, rfl⟩

/-- Settles O10: a step is the block's turn or the move at the head of the agenda, and neither stops. -/
theorem stepNeverStops : Obligations.StepNeverStops := by
  intro s
  rcases hagenda : s.agenda with _ | ⟨m, rest⟩
  case nil => exact ⟨_, step_of_no_moves hagenda⟩
  case cons =>
    rw [step_of_cons hagenda]
    exact moveTurn_completes m s.offAgenda

/-! ### One transfer at an edge -/

theorem phase_of_reqTransfer {s : State} (h : s.reqTransfer = true) : s.phase = .idle := ((reqTransfer_iff s).1 h).2.1

theorem phase_of_rspTransfer {s : State} (h : s.rspTransfer = true) : s.phase = .respond :=
  ((rspTransfer_iff s).1 h).1

theorem phase_of_tblReqTransfer {s : State} (h : s.tblReqTransfer = true) : s.phase = .seed :=
  ((tblReqTransfer_iff s).1 h).1

theorem tblPend_of_tblReqTransfer {s : State} (h : s.tblReqTransfer = true) : s.tblPend = false :=
  ((tblReqTransfer_iff s).1 h).2.1

theorem tblPend_of_tblRspTransfer {s : State} (h : s.tblRspTransfer = true) : s.tblPend = true :=
  ((tblRspTransfer_iff s).1 h).1

/-- The one port whose equation does not name PHASE: the invariant says where a read is outstanding (R76, R206). -/
theorem State.Inv.phase_of_tblRspTransfer {s : State} (hinv : s.Inv) (h : s.tblRspTransfer = true) :
    s.phase = .seed := hinv.pend_in_seed (tblPend_of_tblRspTransfer h)

/-- A table request is offered only while no read is outstanding (R76). -/
theorem tblReqValid_of_pend {s : State} (h : s.tblPend = true) : s.tblReqValid = false := by
  simp [State.tblReqValid, h]

/-- Settles O15: the request, response and table transfers each have a phase of their own, and TBL_PEND tells the two
table transfers apart. -/
theorem atMostOneTransfer : Obligations.AtMostOneTransfer := by
  intro s hinv
  refine ⟨fun ⟨hreq, hrsp⟩ => ?_, fun ⟨hreq, htblReq⟩ => ?_, fun ⟨hreq, htblRsp⟩ => ?_, fun ⟨hrsp, htblReq⟩ => ?_,
    fun ⟨hrsp, htblRsp⟩ => ?_, fun ⟨htblReq, htblRsp⟩ => ?_, tblReqValid_of_pend⟩
  · cases (phase_of_reqTransfer hreq).symm.trans (phase_of_rspTransfer hrsp)
  · cases (phase_of_reqTransfer hreq).symm.trans (phase_of_tblReqTransfer htblReq)
  · cases (phase_of_reqTransfer hreq).symm.trans (hinv.phase_of_tblRspTransfer htblRsp)
  · cases (phase_of_rspTransfer hrsp).symm.trans (phase_of_tblReqTransfer htblReq)
  · cases (phase_of_rspTransfer hrsp).symm.trans (hinv.phase_of_tblRspTransfer htblRsp)
  · exact Bool.eq_false_iff.1 (tblPend_of_tblReqTransfer htblReq) (tblPend_of_tblRspTransfer htblRsp)

/-! ### COMBINE that waits -/

/-- COMBINE that the block cannot accept at once only offers its request (R206). -/
theorem doCombine_of_waits {s : State} (r : Request) (h : s.phase ≠ .idle ∨ s.rst = true ∨ s.reqs ≠ []) :
    doCombine r s = s.offer r := by
  have hcannot : (s.reqReady && s.reqs.isEmpty) = false := by
    rcases h with hbusy | hrst | hreqs
    · simp [State.reqReady, hbusy]
    · simp [State.reqReady, hrst]
    · simp [hreqs]
  simp [doCombine, hcannot]

/-- Settles O36: the offered request is the one of the three fields, behind those on the port. -/
theorem combineWaits : Obligations.CombineWaits := fun _ crc1 crc2 length h =>
  congrArg Host.Outcome.next (doCombine_of_waits (requestOf crc1 crc2 length) h)

end Sys2Proof.Machine
end

section
/-! PROOF. The reset edge, and that RESET abandons what was under way (R230, R231). -/

namespace Sys2Proof.Machine

/-- `rst` masks each of the four outputs (R72 to R75, R230). -/
theorem outputs_of_rst {s : State} (h : s.rst = true) :
    s.reqReady = false ∧ s.rspValid = false ∧ s.tblReqValid = false ∧ s.busy = false := by
  simp [State.reqReady, State.rspValid, State.tblReqValid, State.busy, h]

/-- Settles O12: `rst` masks each output and each transfer, and the edge writes the block's registers only. -/
theorem resetEdge : Obligations.ResetEdge := by
  intro s hr
  refine ⟨outputs_of_rst hr, no_transfer_of_rst hr, fun hagenda => ⟨doReset s, ?_, ?_⟩⟩
  · rw [step_of_no_moves hagenda, if_pos hr]
  · exact ⟨rfl, rfl, rfl, rfl, rfl, rfl, rfl, rfl, rfl, rfl, rfl, rfl, (reqReady_iff _).2 ⟨rfl, rfl⟩⟩

/-- The state after the moves of RESET, with `rest` still on the agenda. -/
def State.afterReset (s : State) (rest : List Move) : State :=
  { doReset { s with rst := true, agenda := rest } with rst := false }

/-- Whatever was under way, the block can accept a request then (R230, R231). -/
theorem ready_afterReset (s : State) (rest : List Move) : (s.afterReset rest).Ready := ⟨rfl, rfl, rfl⟩

/-- The moves of RESET take three steps, whatever PHASE is (R85). -/
theorem run_resetMoves {s : State} {rest : List Move} (n : Nat) (h : s.agenda = resetMoves ++ rest) :
    Sys2Proof.core.run (n + 3) s = Sys2Proof.core.run n (s.afterReset rest) := by
  have hraise : step s = .next { s with rst := true, agenda := .block :: .setRst false :: rest } := by
    rw [step_of_cons h, offAgenda_of_cons h]; rfl
  rw [run_succ_of_step (n + 2) hraise]
  rfl

/-- Settles O13: after RESET the block is ready whatever it held before, and the agents are as responsive, so COMBINE
completes with the value of its own request. -/
theorem resetAbandonsOperation : Obligations.ResetAbandonsOperation := by
  intro s crc1 crc2 length hreqs hresp hagenda
  have hready := ready_afterReset s []
  have hresp' : (s.afterReset []).Responsive := ⟨hresp.accepts, hresp.answers, hresp.takes⟩
  obtain ⟨⟨t, hexec, -, hresponses, -, -, hidle, -⟩, -⟩ :=
    combineCompletes (s.afterReset []) crc1 crc2 length hready hreqs hresp'
  have hstep : step (s.afterReset [.command (packReq crc1 crc2 length)]) = .next t := by
    rw [← hexec, ← decodeReq_packReq]; rfl
  refine ⟨t, ?_, hidle, hresponses⟩
  rw [run_resetMoves 1 hagenda, run_succ_of_step 0 hstep]
  rfl

end Sys2Proof.Machine
end

section
/-! PROOF. An operation in flight reaches RESPOND, and from there IDLE, through whatever moves the agenda holds, if the
agent it waits for responds once they are made (R244, R251). -/

namespace Sys2Proof.Machine

/-! ### The wires after the agenda -/

/-- `t` has the input wires of `s`, apart from the requests (R70). -/
structure SameWires (s t : State) : Prop where
  rst : t.rst = s.rst
  rspReady : t.rspReady = s.rspReady
  tblReqReady : t.tblReqReady = s.tblReqReady
  tblAnswers : t.tblAnswers = s.tblAnswers

theorem SameWires.drive {s t : State} (h : SameWires s t) (m : Move) : SameWires (s.drive m) (t.drive m) := by
  obtain ⟨hrst, hrspReady, htblReqReady, htblAnswers⟩ := h
  cases m <;> constructor <;> simp [State.drive, *]

theorem SameWires.foldl_drive {s t : State} (h : SameWires s t) (l : List Move) :
    SameWires (l.foldl State.drive s) (l.foldl State.drive t) := by
  induction l generalizing s t with
  | nil => exact h
  | cons m l ih => exact ih (h.drive m)

theorem drive_rst_of_ne {s : State} {m : Move} (hr : s.rst = false) (hm : m ≠ .setRst true) :
    (s.drive m).rst = false := by
  cases m
  case setRst b => simpa [State.drive] using hm
  all_goals exact hr

/-! ### One move of the agenda -/

/-- One step of an operation in flight: the block moves, or another agent does and leaves the operation as it is. -/
structure MoveMade (s t : State) : Prop where
  step : step s = .next t
  noReset : t.NoReset
  afterAgenda : SameWires s.afterAgenda t.afterAgenda
  operation : t = blockTransition s.offAgenda ∨ (t.phase = s.phase ∧ t.res = s.res ∧ t.responses = s.responses)

/-- While an operation is in flight, another agent's move drives its wire, or changes the requests or the TABLE: COMBINE
too only offers its request (R206). -/
theorem moveTurn_of_busy {s : State} {m : Move} (hp : s.phase ≠ .idle) (hb : m ≠ .block) :
    ∃ reqs table tblDirty,
      moveTurn m s = .next { s.drive m with reqs := reqs, table := table, tblDirty := tblDirty } := by
  cases m
  case block => exact absurd rfl hb
  case command w => exact ⟨_, _, _, congrArg Host.Outcome.next (doCombine_of_busy _ hp)⟩
  all_goals exact ⟨_, _, _, rfl⟩

/-- A step that makes the first move on the agenda and drives its wire, if it has one, keeps what the agenda leads to. -/
theorem moveMade_of_sameWires {s t : State} {m : Move} {rest : List Move} (hr : s.NoReset)
    (hagenda : s.agenda = m :: rest) (hstep : step s = .next t) (htail : t.agenda = rest)
    (hwires : SameWires (s.drive m) t)
    (hop : t = blockTransition s.offAgenda ∨ (t.phase = s.phase ∧ t.res = s.res ∧ t.responses = s.responses)) :
    MoveMade s t := by
  obtain ⟨hrst, hmem⟩ := hr
  rw [hagenda, List.mem_cons, not_or] at hmem
  obtain ⟨hm, hrest⟩ := hmem
  refine ⟨hstep, ⟨hwires.rst.trans (drive_rst_of_ne hrst (Ne.symm hm)), htail ▸ hrest⟩, ?_, hop⟩
  rw [State.afterAgenda, State.afterAgenda, hagenda, htail]
  exact hwires.foldl_drive rest

/-- While an operation is in flight, the first move on the agenda makes such a step. -/
theorem exists_moveMade {s : State} {m : Move} {rest : List Move} (hp : s.phase ≠ .idle) (hr : s.NoReset)
    (hagenda : s.agenda = m :: rest) : ∃ t, MoveMade s t ∧ t.agenda = rest := by
  have htail : s.offAgenda.agenda = rest := by simp [hagenda]
  by_cases hb : m = .block
  case pos =>
    subst hb
    have hstep : step s = .next (blockTransition s.offAgenda) := by
      rw [step_of_blockMoves (.inr ⟨rest, hagenda⟩), blockTurn_eq, State.offAgenda_rst, hr.1,
        if_neg Bool.false_ne_true]
    obtain ⟨-, hrst, hrspReady, htblReqReady, htblAnswers, hkept⟩ := iterate_sameSurroundings 1 s.offAgenda
    exact ⟨_, moveMade_of_sameWires hr hagenda hstep (hkept.trans htail)
      ⟨hrst, hrspReady, htblReqReady, htblAnswers⟩ (.inl rfl), hkept.trans htail⟩
  case neg =>
    obtain ⟨reqs, table, tblDirty, hmove⟩ := moveTurn_of_busy (s := s.offAgenda) hp hb
    have hkept : (s.offAgenda.drive m).agenda = rest := (State.drive_agenda _ m).trans htail
    obtain ⟨hrst, hrspReady, htblReqReady, htblAnswers⟩ :=
      SameWires.drive (s := s) (t := s.offAgenda) ⟨rfl, rfl, rfl, rfl⟩ m
    exact ⟨_, moveMade_of_sameWires hr hagenda ((step_of_cons hagenda).trans hmove) hkept
      ⟨hrst, hrspReady, htblReqReady, htblAnswers⟩
      (.inr ⟨State.drive_phase _ m, State.drive_res _ m, State.drive_responses _ m⟩), hkept⟩

theorem MoveMade.answersEventually {s t : State} (h : MoveMade s t) (hans : s.AnswersEventually) :
    t.AnswersEventually :=
  ⟨h.afterAgenda.tblReqReady.trans hans.accepts, h.afterAgenda.tblAnswers.trans hans.answers⟩

theorem MoveMade.takesEventually {s t : State} (h : MoveMade s t) (htakes : s.TakesEventually) : t.TakesEventually :=
  h.afterAgenda.rspReady.trans htakes

/-! ### To RESPOND -/

theorem phase_takeWord_ne_idle {s : State} (d : Word) (fresh : Bool) (hp : s.phase ≠ .idle) :
    (s.takeWord d fresh).phase ≠ .idle := by
  by_cases hk : s.k.toNat < 3
  · rwa [takeWord_of_lt d fresh hk]
  · rw [takeWord_of_last d fresh hk]; nofun

theorem phase_seedWith_ne_idle {s : State} (d : Word) (fresh : Bool) (hp : s.phase ≠ .idle) :
    (seedWith d fresh s).phase ≠ .idle := by
  rcases seedWith_cases d fresh s with ⟨-, -, e⟩ | ⟨-, -, -, e⟩ | ⟨-, -, e⟩ | ⟨-, -, -, e⟩ | ⟨-, -, e⟩ <;> rw [e]
  · exact hp
  · exact hp
  · exact hp
  · exact phase_takeWord_ne_idle (s := s.issueRead) d fresh hp
  · exact phase_takeWord_ne_idle d fresh hp

/-- Only RELEASE ends an operation (R155). -/
theorem phase_blockTransition_ne_idle {s : State} (hp : s.phase ≠ .idle) (hrespond : s.phase ≠ .respond) :
    (blockTransition s).phase ≠ .idle := by
  rw [blockTransition_eq]
  rcases transitionWith_cases (seedWith s.tblRspData s.wordDrawn) s with
    ⟨hp', -⟩ | ⟨-, e⟩ | ⟨-, e⟩ | ⟨-, e⟩ | ⟨-, e⟩ | ⟨-, e⟩ | ⟨hp', -⟩
  · exact absurd hp' hp
  · rw [e]; exact phase_seedWith_ne_idle _ _ hp
  · simp [e, doSquare]
  · simp [e, doApply]
  · cases hl : lenLast s.lenR <;> simp [e, doAdvance, hl]
  · simp [e, doFinish]
  · exact absurd hp' hrespond

/-- So a move before RESPOND leaves the operation in flight and hands over no response. -/
theorem MoveMade.inFlight {s t : State} (h : MoveMade s t) (hp : s.phase ≠ .idle) (hrespond : s.phase ≠ .respond) :
    t.phase ≠ .idle ∧ t.responses = s.responses := by
  rcases h.operation with rfl | ⟨hphase, -, hresponses⟩
  · exact ⟨phase_blockTransition_ne_idle (s := s.offAgenda) hp hrespond,
      (blockTransition_records s.offAgenda).2.1 hrespond⟩
  · exact ⟨hphase ▸ hp, hresponses⟩

theorem transitionsLeft_pos {s : State} (hp : s.phase ≠ .idle) : 0 < s.transitionsLeft := by
  have hpos := iterations_pos s.lenR
  cases h : s.phase <;> simp only [State.transitionsLeft, h]
  case idle => exact absurd h hp
  all_goals omega

/-- With a prompt table agent and nobody else to move, all transitions left but RELEASE lead to RESPOND. -/
theorem respond_reached_of_prompt {s : State} (halone : s.BlockAlone) (hprompt : s.TablePrompt)
    (hp : s.phase ≠ .idle) :
    ∃ n t, Sys2Proof.core.run n s = .next t ∧ t.phase = .respond ∧ t.responses = s.responses := by
  have hpos := transitionsLeft_pos hp
  obtain ⟨hleft, hresponses⟩ := iterate_transitionsLeft hprompt (n := s.transitionsLeft - 1) (by omega)
  exact ⟨_, _, run_of_blockAlone halone _, phase_respond_of_transitionsLeft (by omega), hresponses⟩

/-- Settles O59, by induction on the moves to come: before RESPOND none of them ends the operation, and after them only
the block moves, with a prompt table agent. -/
theorem respondReachedWhenTableAnswers : Obligations.RespondReachedWhenTableAnswers := by
  intro s hp hr hans
  induction hagenda : s.agenda generalizing s with
  | nil =>
    have hprompt : s.TablePrompt := by simpa [State.AnswersEventually, State.afterAgenda, hagenda] using hans
    exact respond_reached_of_prompt ⟨hagenda, hr.1⟩ hprompt hp
  | cons m rest ih =>
    by_cases hrespond : s.phase = .respond
    case pos => exact ⟨0, s, rfl, hrespond, rfl⟩
    case neg =>
      obtain ⟨t, hmade, htail⟩ := exists_moveMade hp hr hagenda
      obtain ⟨hp', hresponses⟩ := hmade.inFlight hp hrespond
      obtain ⟨n, u, hrun, hphase, hkept⟩ := ih t hp' hmade.noReset (hmade.answersEventually hans) htail
      exact ⟨n + 1, u, (run_succ_of_step n hmade.step).trans hrun, hphase, hkept.trans hresponses⟩

/-! ### To IDLE -/

/-- In RESPOND a move hands RES over, which ends the operation, or leaves RES waiting (R154, R155). -/
theorem MoveMade.fromRespond {s t : State} (h : MoveMade s t) (hp : s.phase = .respond) :
    (t.phase = .idle ∧ t.responses = s.responses ++ [s.res]) ∨
      (t.phase = .respond ∧ t.res = s.res ∧ t.responses = s.responses) := by
  rcases h.operation with rfl | ⟨hphase, hres, hresponses⟩
  case inl =>
    cases htakes : s.rspReady
    case true =>
      rw [blockTransition_respond (s := s.offAgenda) hp htakes]
      exact .inl ⟨rfl, rfl⟩
    case false =>
      rw [blockTransition_respond_waits (s := s.offAgenda) hp htakes]
      exact .inr ⟨hp, rfl, rfl⟩
  case inr => exact .inr ⟨hphase.trans hp, hres, hresponses⟩

/-- Settles O60, by induction on the moves to come: the host takes RES among them, or is ready once they are made. -/
theorem idleReachedWhenHostTakes : Obligations.IdleReachedWhenHostTakes := by
  intro s hp hr htakes
  induction hagenda : s.agenda generalizing s with
  | nil =>
    have hready : s.rspReady = true := by simpa [State.TakesEventually, State.afterAgenda, hagenda] using htakes
    refine ⟨1, _, run_of_blockAlone ⟨hagenda, hr.1⟩ 1, ?_⟩
    rw [Function.iterate_one, blockTransition_respond hp hready]
    exact ⟨rfl, rfl⟩
  | cons m rest ih =>
    obtain ⟨t, hmade, htail⟩ := exists_moveMade (by simp [hp]) hr hagenda
    rcases hmade.fromRespond hp with ⟨hidle, hresponses⟩ | ⟨hp', hres, hresponses⟩
    case inl => exact ⟨1, t, run_succ_of_step 0 hmade.step, hidle, hresponses⟩
    case inr =>
      obtain ⟨n, u, hrun, hidle, hkept⟩ := ih t hp' hmade.noReset (hmade.takesEventually htakes) htail
      exact ⟨n + 1, u, (run_succ_of_step n hmade.step).trans hrun, hidle, by rw [hkept, hresponses, hres]⟩

end Sys2Proof.Machine
end

section
/-! PROOF. The fact an overlap of APPLY with the next SQUARE rests on, and the bound of the cycle formula (R241,
R252). -/

namespace Sys2Proof.Machine

theorem lenLast_eq_false_of_lt {n : Len} (h : 1 < n.toNat) : lenLast n = false := by
  refine Bool.eq_false_iff.2 fun hlast => ?_
  have hhalf := toNat_lenShift n
  rw [(lenLast_iff n).1 hlast] at hhalf
  have hsmall : 0 = n.toNat / 2 := hhalf
  omega

/-- From APPLY of an iteration that is not the last, the loop goes on to the next SQUARE (R125). -/
theorem iterate_apply_of_lt {s : State} (hp : s.phase = .apply) (hlen : 1 < s.lenR.toNat) :
    blockTransition^[3] s = doSquare (doAdvance (doApply s)) := by
  have hsquare : (doAdvance (doApply s)).phase = .square := by
    simp [doAdvance, doApply, lenLast_eq_false_of_lt hlen]
  simp only [Function.iterate_succ_apply, Function.iterate_zero_apply, blockTransition_apply hp,
    blockTransition_advance (s := doApply s) rfl, blockTransition_square hsquare]

theorem odd_doSquare (s : State) : (doSquare s).odd = s.odd := State.odd_setEven s _

theorem even_doSquare (s : State) : (doSquare s).even = gf2Square s.odd := State.even_setEven s _

/-- Settles O38: ADVANCE turns the buffer APPLY used into ODD, which SQUARE reads only, writing the other. -/
theorem nextSquareKeepsAppliedBuffer : Obligations.NextSquareKeepsAppliedBuffer := by
  intro s hp hr hagenda hlen
  have hodd : (doSquare (doAdvance (doApply s))).odd = s.even :=
    (odd_doSquare _).trans (roles_doAdvance (doApply s)).1
  refine ⟨_, run_of_blockAlone ⟨hagenda, hr⟩ 3, ?_⟩
  rw [iterate_apply_of_lt hp hlen]
  refine ⟨rfl, hodd, (even_doSquare _).trans (by rw [odd_doSquare]), ?_⟩
  rw [hodd]
  simp [doSquare, doAdvance, doApply, lenBit0_eq]

/-- Settles O53: each transition of R127 has a latency of its own in the formula, of at least one cycle. -/
theorem cyclesBoundTransitions : Obligations.CyclesBoundTransitions := by
  intro l n hpositive
  simp only [Latency.positive, Bool.and_eq_true, decide_eq_true_eq] at hpositive
  have hloop : iterations n * 3 ≤ iterations n * (l.square + l.apply + l.advance) :=
    Nat.mul_le_mul_left _ (by omega)
  unfold transitionCount operationCycles
  split <;> omega

end Sys2Proof.Machine
end
